-- ==== Sys2Proof/Word.lean ====
section
/-! DEFINITION. The word types of the command-frame block: a byte (spec 00_scope.md R5, R7) and nothing else. The
helpers that narrow, extend or add bytes stand in Sys2Proof/Decode.lean and Sys2Proof/Machine/Operands.lean. -/

namespace Sys2Proof

/-- A byte: an unsigned 8-bit value, bit 0 least significant (00_scope.md R7, R9). -/
abbrev Byte := BitVec 8

end Sys2Proof
end

