-- ==== Sys2Proof/Config.lean ====
section
/-! DEFINITION. What an implementation of the command-frame block fixes, the open parameter ARGW, and the free values of
the model: what the registers hold at power-up. -/

namespace Sys2Proof

/-- The configuration of a block, fixed while it runs (00_scope.md R5, R6; U8 of 93_implementation_defined.md): a
machine takes it as the field `config` of its `State` (log 1). -/
structure Config where
  /-- `ARGW`, the spec's OPEN parameter: how many bits `cmd_a0` and `cmd_a1` have (R5). -/
  argw : Nat
  /-- `ARGW >= 8`, the one condition on it (R5, R6). -/
  argw_ge : 8 ≤ argw
  deriving DecidableEq, Repr

/-- The configuration with the spec's default width 32, which every example of the spec and the opcode table use (R5;
decision D5). -/
def Config.default : Config := ⟨32, by decide⟩

/-- What `FRAME[i]` holds at power-up, before the first reset step: unspecified (10_state.md R24; U1 of
93_implementation_defined.md). A free value: it has no body, so nothing can be proved of it (log 5), safe. -/
opaque Config.powerUpByte : Nat → Byte

/-- What a flag holds at power-up (0 `FV`, 1 `EINV`, 2 `EUNH`, 3 `RV`), before the first reset step: unspecified
(10_state.md R24; U1). A free value without a body (log 5), safe. -/
opaque Config.powerUpFlag : Nat → Bool

end Sys2Proof
end

