-- ==== Sys2Proof/Syntax.lean ====
section
/-! DEFINITION. The commands: `Instr`, one constructor per row of spec/opcode_table.json (30_encoding.md R41), and the
command ports `Cmd` of format CMD (R40). -/

namespace Sys2Proof

/-- A command, one constructor per row of the opcode table (30_encoding.md R41; 43_operations.md R90).

`a0` and `a1` are the mathematical integers `sint(cmd_a0)`, `sint(cmd_a1)` (00_scope.md R8, 30_encoding.md R42), so that a command and
its meaning do not depend on `ARGW` (R6). An argument the operation ignores stays in the constructor: no bit of the
command word is dropped by decoding, and no meaning reads it (log 8). -/
inductive Instr where
  /-- Op code 0: send a raw value `a1` to the relay bank at `a0` (R91). -/
  | set (a0 a1 : Int)
  /-- Op code 1: switch relay `a1` of the bank at `a0` on (R92). -/
  | setRelay (a0 a1 : Int)
  /-- Op code 2: switch relay `a1` of the bank at `a0` off (R93). -/
  | clearRelay (a0 a1 : Int)
  /-- Op code 3: invert relay `a1` of the bank at `a0` (R94). -/
  | toggleRelay (a0 a1 : Int)
  /-- Op code 4: both arguments ignored (R95). -/
  | emergencyStop (a0 a1 : Int)
  /-- Op code 5: both arguments ignored (R96). -/
  | displayAddress (a0 a1 : Int)
  /-- Op code 6: give the bank at `a0` the new address `a1` (R97). -/
  | setAddress (a0 a1 : Int)
  /-- Op code 7: `a0` is the target address, `a1` is ignored (R98). -/
  | resetAddress (a0 a1 : Int)
  /-- Op codes 8 to 15, the code kept in `n`: the command that matches no operation (R49, R99). -/
  | unhandled (n : BitVec 4) (a0 a1 : Int)
  deriving DecidableEq, Repr

/-- The command ports `cmd_op`, `cmd_a0`, `cmd_a1` at argument width `argw` (10_state.md R11; format CMD, R40). -/
structure Cmd (argw : Nat) where
  op : BitVec 4
  a0 : BitVec argw
  a1 : BitVec argw
  deriving DecidableEq, Repr

end Sys2Proof
end

