-- ==== Sys2Proof/WellFormed.lean ====
section
/-! DEFINITION. Which terms of `Instr` are commands that some port value denotes: both arguments are representable in
`ARGW` bits and an unhandled code is one of 8 to 15 (30_encoding.md R41, R42). -/

namespace Sys2Proof

/-- The integers that an `argw`-bit two's-complement pattern denotes (00_scope.md R5, R8). -/
def argInRange (argw : Nat) (a : Int) : Bool :=
  decide (-((2 ^ (argw - 1) : Nat) : Int) ≤ a) && decide (a < ((2 ^ (argw - 1) : Nat) : Int))

/-- `i` is a command of a block whose arguments have `argw` bits: every argument in range (R42) and the code of an
unhandled command in 8 to 15 (R49). -/
def Instr.wellFormed (argw : Nat) : Instr → Bool
  | .set a0 a1 => argInRange argw a0 && argInRange argw a1
  | .setRelay a0 a1 => argInRange argw a0 && argInRange argw a1
  | .clearRelay a0 a1 => argInRange argw a0 && argInRange argw a1
  | .toggleRelay a0 a1 => argInRange argw a0 && argInRange argw a1
  | .emergencyStop a0 a1 => argInRange argw a0 && argInRange argw a1
  | .displayAddress a0 a1 => argInRange argw a0 && argInRange argw a1
  | .setAddress a0 a1 => argInRange argw a0 && argInRange argw a1
  | .resetAddress a0 a1 => argInRange argw a0 && argInRange argw a1
  | .unhandled n a0 a1 => n.getLsbD 3 && (argInRange argw a0 && argInRange argw a1)

end Sys2Proof
end

