-- ==== Sys2Proof/Decode.lean ====
section
/-! DEFINITION. Decoding of a command (from the ports, from a flat command word, from bytes) and, after it, the
encoder, both written from 30_encoding.md R40 to R42. Decoding the ports or a flat word is total without rejection
(R49: every code has a meaning); decoding bytes rejects by name what is no flat command word. -/

namespace Sys2Proof

/-! ## Two's-complement integers (00_scope.md R8) -/

/-- `sint(x)`: the integer an `argw`-bit two's-complement pattern denotes,
`x[argw-2:0] - 2^(argw-1) * x[argw-1]` (00_scope.md R8). -/
def sint {argw : Nat} (x : BitVec argw) : Int :=
  ((x.extractLsb' 0 (argw - 1)).toNat : Int) - (2 ^ (argw - 1) * (x.getLsbD (argw - 1)).toNat : Nat)

/-! ## Operation codes (30_encoding.md R41) -/

/-- The command that operation code `op` selects with arguments `a0`, `a1`: codes 0 to 7 in the order of R41,
codes 8 to 15 unhandled (R49). The arguments take no part in the selection. -/
def decodeOp (op : BitVec 4) (a0 a1 : Int) : Instr :=
  match op with
  | 0#4 => .set a0 a1
  | 1#4 => .setRelay a0 a1
  | 2#4 => .clearRelay a0 a1
  | 3#4 => .toggleRelay a0 a1
  | 4#4 => .emergencyStop a0 a1
  | 5#4 => .displayAddress a0 a1
  | 6#4 => .setAddress a0 a1
  | 7#4 => .resetAddress a0 a1
  | n => .unhandled n a0 a1

/-- The command presented on the ports (R41, R42): `cmd_a0` and `cmd_a1` are read as signed integers. -/
def decodeCmd {argw : Nat} (c : Cmd argw) : Instr :=
  decodeOp c.op (sint c.a0) (sint c.a1)

/-! ## The flat command word (30_encoding.md R40) -/

/-- How many bits a flat command word has (R40): 68 at `ARGW` = 32. -/
abbrev flatBits (argw : Nat) : Nat := 2 * argw + 4

/-- The ports that a flat command word stands for (R40): `op` at bits `[2*ARGW+3 : 2*ARGW]`, `a0` at
`[2*ARGW-1 : ARGW]`, `a1` at `[ARGW-1 : 0]`. -/
def Cmd.ofFlat {argw : Nat} (w : BitVec (flatBits argw)) : Cmd argw where
  op := w.extractLsb' (2 * argw) 4
  a0 := w.extractLsb' argw argw
  a1 := w.extractLsb' 0 argw

/-- The command a flat word stands for. Total: every word is a command (R49, R90). -/
def decodeWord (argw : Nat) (w : BitVec (flatBits argw)) : Instr :=
  decodeCmd (Cmd.ofFlat w)

/-! ## Bytes

The CFB stores no command: the flat word is a number that listings use (R40). The host's interface to this model asks
for commands as bytes; the image chosen here is the flat word in whole bytes, least significant byte first, the bits
above the flat word 0. DESIGN CHOICE (log 6), safe: no rule of the spec speaks of a command's bytes. -/

/-- Why a list of bytes does not begin with the image of a flat command word. -/
inductive DecodeError where
  /-- fewer bytes than one image has -/
  | shortImage
  /-- a bit above the flat command word is 1 -/
  | padding
  deriving DecidableEq, Repr

/-- The least significant `n` bytes of `w`, least significant first. -/
def wordBytes : Nat → Nat → List Byte
  | 0, _ => []
  | n + 1, w => BitVec.ofNat 8 w :: wordBytes n (w / 256)

/-- The number whose bytes these are, least significant first. -/
def bytesWord : List Byte → Nat
  | [] => 0
  | b :: bs => b.toNat + 256 * bytesWord bs

/-- How many bytes the image of a flat command word takes: 9 at `ARGW` = 32. -/
def imageBytes (argw : Nat) : Nat := (flatBits argw + 7) / 8

/-- The command ports that the first bytes of a list stand for, with the bytes after them. -/
def decodeImage (argw : Nat) (bs : List Byte) : Except DecodeError (Cmd argw × List Byte) :=
  if bs.length < imageBytes argw then
    .error .shortImage
  else if 2 ^ flatBits argw ≤ bytesWord (bs.take (imageBytes argw)) then
    .error .padding
  else
    .ok (Cmd.ofFlat (BitVec.ofNat (flatBits argw) (bytesWord (bs.take (imageBytes argw)))), bs.drop (imageBytes argw))

/-- The command at the head of a list of bytes, with the bytes after it: total, rejecting by name. -/
def decodeBytes (argw : Nat) (bs : List Byte) : Except DecodeError (Instr × List Byte) :=
  match decodeImage argw bs with
  | .error e => .error e
  | .ok (c, rest) => .ok (decodeCmd c, rest)

/-- The bytes of an instruction whose bits are `w`, `nbits` of them given and every bit above them 0, at the default
width, at which spec/opcode_table.json gives its words. -/
def tableBytes (nbits w : Nat) : List Byte :=
  wordBytes (max (imageBytes Config.default.argw) ((nbits + 7) / 8)) (w % 2 ^ nbits)

/-- The instruction the decoder reads from an instruction whose bits are `w`, numbered as spec/opcode_table.json
numbers them: the table is written at the default width, 32. -/
def decodeTableWord (nbits w : Nat) : Option Instr :=
  match decodeBytes Config.default.argw (tableBytes nbits w) with
  | .ok (i, _) => some i
  | .error _ => none

/-! ## The encoder -/

/-- The operation code of a command (R41). -/
def Instr.opcode : Instr → BitVec 4
  | .set _ _ => 0#4
  | .setRelay _ _ => 1#4
  | .clearRelay _ _ => 2#4
  | .toggleRelay _ _ => 3#4
  | .emergencyStop _ _ => 4#4
  | .displayAddress _ _ => 5#4
  | .setAddress _ _ => 6#4
  | .resetAddress _ _ => 7#4
  | .unhandled n _ _ => n

/-- The integer carried by `cmd_a0` (R42). -/
def Instr.arg0 : Instr → Int
  | .set a _ | .setRelay a _ | .clearRelay a _ | .toggleRelay a _ | .emergencyStop a _ | .displayAddress a _ => a
  | .setAddress a _ | .resetAddress a _ | .unhandled _ a _ => a

/-- The integer carried by `cmd_a1` (R42). -/
def Instr.arg1 : Instr → Int
  | .set _ a | .setRelay _ a | .clearRelay _ a | .toggleRelay _ a | .emergencyStop _ a | .displayAddress _ a => a
  | .setAddress _ a | .resetAddress _ a | .unhandled _ _ a => a

/-- The port values that present a command: negative arguments in two's complement (R51). -/
def encodeCmd (argw : Nat) (i : Instr) : Cmd argw where
  op := i.opcode
  a0 := BitVec.ofInt argw i.arg0
  a1 := BitVec.ofInt argw i.arg1

/-- The flat command word of the ports, `{op, a0, a1}` with `op` in the top bits (R40). -/
def Cmd.flat {argw : Nat} (c : Cmd argw) : BitVec (flatBits argw) :=
  (c.op ++ c.a0 ++ c.a1).cast (by simp [flatBits]; omega)

/-- The flat command word of a command (R40, R51). -/
def encodeWord (argw : Nat) (i : Instr) : BitVec (flatBits argw) :=
  (encodeCmd argw i).flat

/-- The byte image of a command. -/
def encodeBytes (argw : Nat) (i : Instr) : List Byte :=
  wordBytes (imageBytes argw) (encodeWord argw i).toNat

/-- The flat command word of a command at the default width, the one of the spec's listings. -/
def encode (i : Instr) : BitVec (flatBits Config.default.argw) :=
  encodeWord Config.default.argw i

/-! ## The opcode table as masks and patterns -/

/-- One row of spec/opcode_table.json: `op` selects the row when `op AND mask = pattern` (its `op_match`, `op_mask`). -/
structure OpRow where
  mnemonic : String
  pattern : BitVec 4
  mask : BitVec 4
  deriving DecidableEq, Repr

/-- The nine rows of spec/opcode_table.json (R41). -/
def opTable : List OpRow :=
  [⟨"SET", 0x0#4, 0xF#4⟩, ⟨"SET_RELAY", 0x1#4, 0xF#4⟩, ⟨"CLEAR_RELAY", 0x2#4, 0xF#4⟩,
   ⟨"TOGGLE_RELAY", 0x3#4, 0xF#4⟩, ⟨"EMERGENCY_STOP", 0x4#4, 0xF#4⟩, ⟨"DISPLAY_ADDRESS", 0x5#4, 0xF#4⟩,
   ⟨"SET_ADDRESS", 0x6#4, 0xF#4⟩, ⟨"RESET_ADDRESS", 0x7#4, 0xF#4⟩, ⟨"UNHANDLED", 0x8#4, 0x8#4⟩]

/-- The row of the table that an operation code matches. -/
def OpRow.selects (r : OpRow) (op : BitVec 4) : Bool := op &&& r.mask == r.pattern

/-- The mnemonic of a command (R41, R51). -/
def Instr.mnemonic : Instr → String
  | .set _ _ => "SET"
  | .setRelay _ _ => "SET_RELAY"
  | .clearRelay _ _ => "CLEAR_RELAY"
  | .toggleRelay _ _ => "TOGGLE_RELAY"
  | .emergencyStop _ _ => "EMERGENCY_STOP"
  | .displayAddress _ _ => "DISPLAY_ADDRESS"
  | .setAddress _ _ => "SET_ADDRESS"
  | .resetAddress _ _ => "RESET_ADDRESS"
  | .unhandled _ _ _ => "UNHANDLED"

end Sys2Proof
end

