-- ==== Sys2Proof/Machine/State.lean ====
section
/-! DEFINITION. The state of the command-frame block (10_state.md R10 to R24), the reasons a step can stop, the types
of a response, and the states at power-up and after reset. -/

namespace Sys2Proof.Machine

/-- Five bytes in the order of 20_memory.md R31: byte 0 marker, 1 address, 2 instruction byte, 3 value, 4 checksum
(30_encoding.md R40). A plain value; what makes it a frame is said by the units. -/
structure Frame where
  b0 : Byte
  b1 : Byte
  b2 : Byte
  b3 : Byte
  b4 : Byte
  deriving DecidableEq, Repr

/-- Five bytes `0x00`: what the frame registers hold after reset and after an error response (10_state.md R14). It is
not a frame (30_encoding.md R50). -/
def Frame.zero : Frame := ⟨0, 0, 0, 0, 0⟩

/-- The response register set, the whole architectural state of the block: 44 bits (10_state.md R10). -/
structure Registers where
  /-- `FRAME[0]` to `FRAME[4]` (R14) -/
  frame : Frame
  /-- `FV`, frame valid (R15) -/
  fv : Bool
  /-- `EINV`, invalid relay index diagnostic (R16) -/
  einv : Bool
  /-- `EUNH`, unhandled operation diagnostic (R17) -/
  eunh : Bool
  /-- `RV`, response valid strobe (R18) -/
  rv : Bool
  deriving DecidableEq, Repr

/-- The reset value of every register (10_state.md R24). -/
def Registers.reset : Registers := ⟨Frame.zero, false, false, false, false⟩

/-- What the host drives on the input ports at one rising edge: `rst`, `cmd_valid` and the command ports
(10_state.md R11). -/
structure PortSample (argw : Nat) where
  rst : Bool
  cmdValid : Bool
  cmd : Cmd argw
  deriving DecidableEq, Repr

/-- The state of the model: the configuration of the block, the block's 44 bits, and two fields of the model's own.

`config` is the configuration that the machine takes (00_scope.md R6): it is no architectural state and no step changes
it (log 1). `resetSeen` says that a reset step has happened since power-up (10_state.md R24: before it every register is
unspecified). `inputs` is the host's side of the input ports, one sample for each coming rising edge, the next edge
first; the block itself stores no input (R10), so no register depends on a sample after its edge (log 2). -/
structure State where
  config : Config
  regs : Registers
  resetSeen : Bool
  inputs : List (PortSample config.argw)
  deriving DecidableEq, Repr

/-- The reasons a step stops with a fault: none. No fault is fatal to the block and it has no stuck or halted state
(60_exceptions.md R128); its two error conditions are responses, taken as a next state (R126). Nothing raises a value
of this type, which is safe (log 7). -/
inductive Fault where
  deriving DecidableEq, Repr

/-- The reasons for refusing. -/
inductive Refusal where
  /-- An instruction without a meaning, by its mnemonic. Only an arm of `exec` may answer it, and none does. Safe. -/
  | notModelled (mnemonic : String)
  /-- Raised by `step` at an edge with `rst = 0`, and by `observe`, before the first reset step after power-up: every
  register is unspecified and a run that has not begun with a reset step has no meaning (10_state.md R24,
  70_reset_and_hazards.md R143, U1 of 93_implementation_defined.md). No meaning of an instruction raises it. Safe. -/
  | beforeReset
  deriving DecidableEq, Repr

/-- A block of any width right after a reset step (10_state.md R24): every register 0. No port sample is given: what the
host drives next comes from outside (DESIGN CHOICE, log 3). -/
def State.resetWith (config : Config) : State where
  config := config
  regs := Registers.reset
  resetSeen := true
  inputs := []

/-- The machine right after a reset step, at the spec's default width (10_state.md R24; 00_scope.md R5). -/
def State.reset : State := State.resetWith Config.default

/-- A block after power is applied, before any reset step: every register a free value (10_state.md R24; U1). Only a
reset step leaves this condition (70_reset_and_hazards.md R143; log 5). -/
def State.powerUp (config : Config) : State where
  config := config
  regs :=
    { frame := ⟨Config.powerUpByte 0, Config.powerUpByte 1, Config.powerUpByte 2, Config.powerUpByte 3,
        Config.powerUpByte 4⟩
      fv := Config.powerUpFlag 0
      einv := Config.powerUpFlag 1
      eunh := Config.powerUpFlag 2
      rv := Config.powerUpFlag 3 }
  resetSeen := false
  inputs := []

/-- The two error conditions (60_exceptions.md R120, R121). -/
inductive Condition where
  /-- a relay operation with an index outside 1 to 8 (R120) -/
  | invalidIndex
  /-- a command with an operation code 8 to 15 (R121) -/
  | unhandled
  deriving DecidableEq, Repr

/-- The result of one command (43_operations.md R90): a frame, or one of the two error conditions. -/
inductive Response where
  | frame (f : Frame)
  | error (c : Condition)
  deriving DecidableEq, Repr

/-- The three steps that a rising edge can perform (10_state.md R19), and the edge for which the spec gives no step:
one without reset before the first reset step (R24, U1). -/
inductive EdgeKind (argw : Nat) where
  | reset
  | beforeReset
  | command (c : Cmd argw)
  | idle
  deriving DecidableEq, Repr

end Sys2Proof.Machine
end

