-- ==== Sys2Proof/Machine/Operands.lean ====
section
/-! DEFINITION. The four sources of a frame byte and no others (30_encoding.md R45): constants, truncated arguments,
relay codes and the checksum, the last in Sys2Proof/Machine/Units.lean; and the byte primitives of 00_scope.md R8. -/

namespace Sys2Proof.Machine

/-! ## Byte primitives (00_scope.md R8) -/

/-- `trunc8(n)`: the byte `n mod 256`, for any integer. -/
def trunc8 (n : Int) : Byte := BitVec.ofInt 8 n

/-- `add8(a, b)`: an 8-bit adder whose carry out is discarded. -/
def add8 (a b : Byte) : Byte := a + b

/-- `not8(a)`: the complement of the eight bits, `255 - a`. -/
def not8 (a : Byte) : Byte := ~~~a

/-! ## Constants (30_encoding.md R46)

`'B'` and `'S'` are numbers of the source; the other letters are ASCII codes that the spec marks as general knowledge
(G1 of 93_implementation_defined.md; log 13). -/

/-- Frame byte 0, the constant 13 (00_scope.md R5, 42_frame_encoder.md R80). -/
def marker : Byte := 0x0D
/-- `'B'`, the instruction byte of SET. -/
def letterB : Byte := 0x42
/-- `'S'`, the instruction byte of SET_RELAY. -/
def letterS : Byte := 0x53
/-- `'C'`, the instruction byte of CLEAR_RELAY. PRESUMED by the spec (G1). -/
def letterC : Byte := 0x43
/-- `'T'`, the instruction byte of TOGGLE_RELAY and of SET_ADDRESS alike (R48). PRESUMED by the spec (G1). -/
def letterT : Byte := 0x54
/-- `'E'`, the instruction byte of EMERGENCY_STOP. PRESUMED by the spec (G1). -/
def letterE : Byte := 0x45
/-- `'D'`, the instruction byte of DISPLAY_ADDRESS. PRESUMED by the spec (G1). -/
def letterD : Byte := 0x44
/-- `'A'`, the instruction byte of RESET_ADDRESS. PRESUMED by the spec (G1). -/
def letterA : Byte := 0x41
/-- `'0'`, the base of the relay codes (R46: 51 - 3). -/
def digitZero : Byte := 0x30

/-- The seven instruction bytes that the block can emit; the set is closed (R46). -/
def instructionBytes : List Byte := [letterB, letterS, letterC, letterT, letterE, letterD, letterA]

/-! ## Relay codes (30_encoding.md R47) -/

/-- The relay code of a valid index: `0x30 + index`. -/
def relayCode (index : Int) : Byte := add8 digitZero (trunc8 index)

end Sys2Proof.Machine
end

