-- ==== Sys2Proof/Machine/Units.lean ====
section
/-! DEFINITION. The three function units as pure functions: U1 `chk` (40_checksum.md R60), U2 `validate`
(41_relay_validator.md R70), U3's pack `encodeFrame` (42_frame_encoder.md R80). -/

namespace Sys2Proof.Machine

/-- `CHK(b0, b1, b2, b3)`, unit U1: add the four bytes, complement, add 1, every carry out dropped (R60). -/
def chk (b0 b1 b2 b3 : Byte) : Byte :=
  add8 (not8 (add8 (add8 (add8 b0 b1) b2) b3)) 1

/-- The result of unit U2 (R70). -/
inductive IndexCheck where
  | valid (code : Byte)
  | invalid
  deriving DecidableEq, Repr

/-- `VALIDATE(index)`, unit U2: valid exactly for 1 to 8, tested on the whole integer before any truncation (R70, R72). -/
def validate (index : Int) : IndexCheck :=
  if 1 ≤ index ∧ index ≤ 8 then .valid (relayCode index) else .invalid

/-- The signal `rc_valid` (R70, R74): the normative tag (90_conflicts.md C5). -/
def IndexCheck.rcValid : IndexCheck → Bool
  | .valid _ => true
  | .invalid => false

/-- The signal `rc_code`: the code, and the sentinel `0x00` when invalid, which no frame ever carries as a code
(R70, R73). -/
def IndexCheck.rcCode : IndexCheck → Byte
  | .valid code => code
  | .invalid => 0x00

/-- The signal `rc_diag`, `not rc_valid` (R74). -/
def IndexCheck.rcDiag (v : IndexCheck) : Bool := !v.rcValid

/-- `ENCODE(address, instruction, value)`, unit U3's pack: `[13, address, instruction, value, CHK]` (R80). -/
def encodeFrame (address instruction value : Byte) : Frame :=
  ⟨marker, address, instruction, value, chk marker address instruction value⟩

/-- `FRAME[i]`, the byte at position `i` (00_scope.md R8; 20_memory.md R30 (b): selected by wiring). -/
def Frame.byte (f : Frame) : Fin 5 → Byte
  | 0 => f.b0
  | 1 => f.b1
  | 2 => f.b2
  | 3 => f.b3
  | 4 => f.b4

/-- The five bytes added modulo 256: 0 for every frame (42_frame_encoder.md R82 (d)). -/
def Frame.sum8 (f : Frame) : Byte :=
  add8 (add8 (add8 (add8 f.b0 f.b1) f.b2) f.b3) f.b4

/-- `f` has the marker byte and the checksum of its own first four bytes: it is `ENCODE` of its three middle bytes
(42_frame_encoder.md R82). -/
def Frame.isEncoded (f : Frame) : Bool :=
  f == encodeFrame f.b1 f.b2 f.b3

end Sys2Proof.Machine
end

