-- ==== Sys2Proof/Machine/Flags.lean ====
section
/-! DEFINITION. Every flag of the block as a function of the response that sets it (10_state.md R15 to R18), and the
response kind codes (R20, 60_exceptions.md R122). -/

namespace Sys2Proof.Machine

/-- What the frame registers hold after a response: the frame, and five zero bytes where there is none (R14). -/
def Response.frameBytes : Response → Frame
  | .frame f => f
  | .error _ => Frame.zero

/-- `FV` after a response: 1 exactly when it is a frame (R15). -/
def Response.fv : Response → Bool
  | .frame _ => true
  | .error _ => false

/-- `EINV` after a response: 1 exactly when it is InvalidIndex (R16). -/
def Response.einv : Response → Bool
  | .frame _ => false
  | .error .invalidIndex => true
  | .error .unhandled => false

/-- `EUNH` after a response: 1 exactly when it is Unhandled (R17). -/
def Response.eunh : Response → Bool
  | .frame _ => false
  | .error .invalidIndex => false
  | .error .unhandled => true

/-- The response kind code of a response: 1 FRAME, 2 INVALID_INDEX, 3 UNHANDLED (R122). -/
def Response.kind : Response → BitVec 2
  | .frame _ => 1
  | .error .invalidIndex => 2
  | .error .unhandled => 3

/-- `rsp_kind` as a function of the three response flags: the first that is 1 of `FV`, `EINV`, `EUNH`; 0 NONE when
none is (R20). -/
def rspKind (fv einv eunh : Bool) : BitVec 2 :=
  if fv then 1 else if einv then 2 else if eunh then 3 else 0

/-- The register set that a response leaves, whatever the registers held before (R19): `RV` is 1 in the cycle after
the command (R18). -/
def Response.registers (r : Response) : Registers where
  frame := r.frameBytes
  fv := r.fv
  einv := r.einv
  eunh := r.eunh
  rv := true

end Sys2Proof.Machine
end

