-- ==== Sys2Proof/Machine/Ops.lean ====
section
/-! DEFINITION. The operations that change the state: loading a frame, raising an error condition (the ONE operation
that takes an exception), the reset step and the idle step (10_state.md R19), and moving on to the next port sample. -/

namespace Sys2Proof.Machine

/-! ## The command step's two ends (10_state.md R19) -/

/-- The response is a frame: the five bytes loaded together, `FV` 1, the diagnostics 0, `RV` 1 (R14, R15, R19). -/
def loadFrame (f : Frame) (s : State) : State :=
  { s with regs := (Response.frame f).registers }

/-- Taking an error condition, the block's form of an exception (60_exceptions.md R120, R121, R126): all five frame
registers cleared together, `FV` 0, the condition's own flag 1 and the other 0, `RV` 1. Nothing is saved, control goes
nowhere, no mode changes, and neither the index nor the operation code is recorded.

There is no return from it (R127): no operation restores anything, and the next accepted command overwrites the
flags. -/
def raise (c : Condition) (s : State) : State :=
  { s with regs := (Response.error c).registers }

/-- The command step's register update (R19). -/
def respond (r : Response) (s : State) : State :=
  match r with
  | .frame f => loadFrame f s
  | .error c => raise c s

/-! ## The other two steps (10_state.md R19) -/

/-- The reset step: every register at its reset value, whatever it held, even unspecified (R24,
70_reset_and_hazards.md R140). From here on the registers are specified. -/
def resetStep (s : State) : State :=
  { s with regs := Registers.reset, resetSeen := true }

/-- The idle step: `RV` 0, every other register keeps its value (R19). -/
def idleStep (s : State) : State :=
  { s with regs := { s.regs with rv := false } }

/-! ## The input ports (10_state.md R11) -/

/-- A sample without reset and without a command: `cmd_op`, `cmd_a0`, `cmd_a1` may then be anything
(70_reset_and_hazards.md R149) and have no effect. -/
def idleSample (argw : Nat) : PortSample argw :=
  ⟨false, false, ⟨0, 0, 0⟩⟩

/-- A sample that presents a command (R146). -/
def commandSample {argw : Nat} (c : Cmd argw) : PortSample argw :=
  ⟨false, true, c⟩

/-- A sample that asserts reset (R140). -/
def resetSample (argw : Nat) : PortSample argw :=
  ⟨true, false, ⟨0, 0, 0⟩⟩

/-- What the ports carry at the next edge. When no sample is given the host holds `cmd_valid = 0`, which R146 lets it
do for any time (DESIGN CHOICE, log 3). -/
def nextSample (s : State) : PortSample s.config.argw :=
  s.inputs.headD (idleSample s.config.argw)

/-- The edge is past: the next sample is used up. -/
def tick (s : State) : State :=
  { s with inputs := s.inputs.tail }

/-- The host drives `p` at the next edge in place of what it was going to drive. -/
def present (s : State) (p : PortSample s.config.argw) : State :=
  { s with inputs := p :: s.inputs.tail }

/-- Which step the next edge performs (R19): `rst` has priority over `cmd_valid`. Before the first reset step any
other edge has none (R24, R143, U1). -/
def edgeKind (s : State) : EdgeKind s.config.argw :=
  if (nextSample s).rst then .reset
  else if !s.resetSeen then .beforeReset
  else if (nextSample s).cmdValid then .command (nextSample s).cmd
  else .idle

/-- The sample by which the host presents to a block of any width the instruction whose bits are `w` in the opcode
table; no command where the decoder refuses the word or an argument does not fit the width (log 4). -/
def fetchSample (argw nbits w : Nat) : PortSample argw :=
  match decodeTableWord nbits w with
  | some i => if i.wellFormed argw then commandSample (encodeCmd argw i) else idleSample argw
  | none => idleSample argw

end Sys2Proof.Machine
end

