-- ==== Sys2Proof/Machine/ConstantOps.lean ====
section
/-! DEFINITION. The operations without arguments, whose frames are constants: EMERGENCY_STOP and DISPLAY_ADDRESS
(43_operations.md R95, R96). -/

namespace Sys2Proof.Machine

/-- The response to `EMERGENCY_STOP`: address 0, instruction `'E'`, value 0 (R95). -/
def opEmergencyStop : Response :=
  .frame (encodeFrame 0 letterE 0)

/-- `EMERGENCY_STOP` (R95): an ordinary frame-producing operation (R101). -/
def execEmergencyStop (s : State) : Host.Outcome State Fault Refusal :=
  .next (respond opEmergencyStop s)

/-- The response to `DISPLAY_ADDRESS`: address 0, instruction `'D'`, value 0 (R96). -/
def opDisplayAddress : Response :=
  .frame (encodeFrame 0 letterD 0)

/-- `DISPLAY_ADDRESS` (R96). -/
def execDisplayAddress (s : State) : Host.Outcome State Fault Refusal :=
  .next (respond opDisplayAddress s)

end Sys2Proof.Machine
end

