-- ==== Sys2Proof/Machine/FallbackOps.lean ====
section
/-! DEFINITION. The fallback UNHANDLED, operation codes 8 to 15 (43_operations.md R99). -/

namespace Sys2Proof.Machine

/-- The response to every unhandled code: the condition Unhandled (R99, 60_exceptions.md R121). It is not a refusal:
the spec gives the response and the next command is processed normally (R49, U10). -/
def opUnhandled : Response :=
  .error .unhandled

/-- `UNHANDLED n` (R99): all eight codes behave alike. -/
def execUnhandled (s : State) : Host.Outcome State Fault Refusal :=
  .next (respond opUnhandled s)

end Sys2Proof.Machine
end

