-- ==== Sys2Proof/Machine/RawOps.lean ====
section
/-! DEFINITION. The operations whose arguments are sent without validation: SET, SET_ADDRESS, RESET_ADDRESS
(43_operations.md R91, R97, R98). Any argument is truncated to its low eight bits, none is an error (R81, R123). -/

namespace Sys2Proof.Machine

/-- The response to `SET a0, a1`: address `a0`, instruction `'B'`, value `a1` (R91). -/
def opSet (a0 a1 : Int) : Response :=
  .frame (encodeFrame (trunc8 a0) letterB (trunc8 a1))

/-- `SET a0, a1` (R91). -/
def execSet (a0 a1 : Int) (s : State) : Host.Outcome State Fault Refusal :=
  .next (respond (opSet a0 a1) s)

/-- The response to `SET_ADDRESS a0, a1`: address `a0`, instruction `'T'`, value `a1`, two arguments
(R97; 90_conflicts.md C1). -/
def opSetAddress (a0 a1 : Int) : Response :=
  .frame (encodeFrame (trunc8 a0) letterT (trunc8 a1))

/-- `SET_ADDRESS a0, a1` (R97). -/
def execSetAddress (a0 a1 : Int) (s : State) : Host.Outcome State Fault Refusal :=
  .next (respond (opSetAddress a0 a1) s)

/-- The response to `RESET_ADDRESS a0`: address 0, instruction `'A'`, the target address as the value (R98). -/
def opResetAddress (a0 : Int) : Response :=
  .frame (encodeFrame 0 letterA (trunc8 a0))

/-- `RESET_ADDRESS a0` (R98); it has nothing to do with the input `rst`. -/
def execResetAddress (a0 : Int) (s : State) : Host.Outcome State Fault Refusal :=
  .next (respond (opResetAddress a0) s)

end Sys2Proof.Machine
end

