-- ==== Sys2Proof/Machine/RelayOps.lean ====
section
/-! DEFINITION. The operations that consult the validator: SET_RELAY, CLEAR_RELAY, TOGGLE_RELAY (43_operations.md R92
to R94). An index outside 1 to 8 is InvalidIndex and no frame is built from it (41_relay_validator.md R73). -/

namespace Sys2Proof.Machine

/-- The gating that the three relay operations share: InvalidIndex where U2 answers so, else the frame built from the
relay code (R92 to R94, R100). -/
def withRelayCode (a1 : Int) (build : Byte → Frame) : Response :=
  match validate a1 with
  | .invalid => .error .invalidIndex
  | .valid code => .frame (build code)

/-- The response to `SET_RELAY a0, a1`: instruction `'S'`, and the RAW index as the value, not the relay code
(R92; decision D17). -/
def opSetRelay (a0 a1 : Int) : Response :=
  withRelayCode a1 fun _ => encodeFrame (trunc8 a0) letterS (trunc8 a1)

/-- `SET_RELAY a0, a1` (R92). -/
def execSetRelay (a0 a1 : Int) (s : State) : Host.Outcome State Fault Refusal :=
  .next (respond (opSetRelay a0 a1) s)

/-- The response to `CLEAR_RELAY a0, a1`: instruction `'C'`, the relay code as the value (R93). -/
def opClearRelay (a0 a1 : Int) : Response :=
  withRelayCode a1 fun code => encodeFrame (trunc8 a0) letterC code

/-- `CLEAR_RELAY a0, a1` (R93). -/
def execClearRelay (a0 a1 : Int) (s : State) : Host.Outcome State Fault Refusal :=
  .next (respond (opClearRelay a0 a1) s)

/-- The response to `TOGGLE_RELAY a0, a1`: instruction `'T'`, the relay code as the value (R94). -/
def opToggleRelay (a0 a1 : Int) : Response :=
  withRelayCode a1 fun code => encodeFrame (trunc8 a0) letterT code

/-- `TOGGLE_RELAY a0, a1` (R94). -/
def execToggleRelay (a0 a1 : Int) (s : State) : Host.Outcome State Fault Refusal :=
  .next (respond (opToggleRelay a0 a1) s)

end Sys2Proof.Machine
end

