-- ==== Sys2Proof/Machine/Dispatch.lean ====
section
/-! DEFINITION. The dispatch of a command to its meaning (43_operations.md R90), one arm per row of the opcode table. -/

namespace Sys2Proof.Machine

/-- The command step's effect on the state (10_state.md R19). -/
def exec (i : Instr) (s : State) : Host.Outcome State Fault Refusal :=
  match i with
  | .set a0 a1 => Sys2Proof.Machine.execSet a0 a1 s
  | .setRelay a0 a1 => Sys2Proof.Machine.execSetRelay a0 a1 s
  | .clearRelay a0 a1 => Sys2Proof.Machine.execClearRelay a0 a1 s
  | .toggleRelay a0 a1 => Sys2Proof.Machine.execToggleRelay a0 a1 s
  | .emergencyStop _ _ => Sys2Proof.Machine.execEmergencyStop s
  | .displayAddress _ _ => Sys2Proof.Machine.execDisplayAddress s
  | .setAddress a0 a1 => Sys2Proof.Machine.execSetAddress a0 a1 s
  | .resetAddress a0 _ => Sys2Proof.Machine.execResetAddress a0 s
  | .unhandled _ _ _ => Sys2Proof.Machine.execUnhandled s

end Sys2Proof.Machine
end

