-- ==== Sys2Proof/Machine/Step.lean ====
section
/-! DEFINITION. One step of the machine: one rising edge of `clk` (10_state.md R19). -/

namespace Sys2Proof.Machine

/-- One rising edge: the step that `rst` and `cmd_valid` choose at the next port sample (R19). Every edge uses up its
sample. -/
def step (s : State) : Host.Outcome State Fault Refusal :=
  match edgeKind s with
  | .reset => .next (resetStep (tick s))
  | .beforeReset => .refused .beforeReset
  | .command c => exec (decodeCmd c) (tick s)
  | .idle => .next (idleStep (tick s))

/-- `s` with the instruction whose bits are `w` presented on the command ports at the next edge, as the host does it
(R146), so that the very next step runs it: the reset that must come before a first command counts as done
(70_reset_and_hazards.md R143; log 4). -/
def State.withFetchWord (s : State) (nbits w : Nat) : State :=
  { present s (fetchSample s.config.argw nbits w) with resetSeen := true }

end Sys2Proof.Machine
end

