-- ==== Sys2Proof/Machine/Assembler.lean ====
section
/-! DEFINITION. The assembler syntax of 30_encoding.md R51: one command per line, `MNEMONIC`, `MNEMONIC a0` or
`MNEMONIC a0, a1`, arguments as signed decimal integers, `0x` hexadecimal or a character literal, `--` beginning a
comment. What R51 leaves open of the lexical form, and that a line which is no command of R51 is rejected, is DESIGN
CHOICE (log 15), safe. -/

namespace Sys2Proof.Machine

/-- Why a line is no command. -/
inductive AsmError where
  /-- the line does not begin with a mnemonic of R41 -/
  | unknownMnemonic
  /-- too few, too many or badly separated arguments -/
  | badArguments
  /-- an argument that is no decimal, hexadecimal or character literal -/
  | badNumber
  /-- an argument that `ARGW` bits cannot hold (R42) -/
  | argumentOutOfRange
  /-- a code of UNHANDLED outside 8 to 15 (R51) -/
  | badCode
  deriving DecidableEq, Repr

/-- A piece of a line. -/
inductive AsmToken where
  | word (cs : List Char)
  | comma
  | literal (c : Char)
  deriving DecidableEq, Repr

/-- A command as it is written, the ignored arguments absent (R51). -/
inductive AsmLine where
  | set (a0 a1 : Int)
  | setRelay (a0 a1 : Int)
  | clearRelay (a0 a1 : Int)
  | toggleRelay (a0 a1 : Int)
  | emergencyStop
  | displayAddress
  | setAddress (a0 a1 : Int)
  | resetAddress (a0 : Int)
  | unhandled (n : Int)
  deriving DecidableEq, Repr

/-! ## From text to lines -/

/-- The word read so far, put before the tokens after it. -/
def asmFlush (acc : List Char) (ts : List AsmToken) : List AsmToken :=
  if acc.isEmpty then ts else .word acc.reverse :: ts

/-- The tokens of a line up to its comment (R51); `acc` holds the word being read, last character first.

DESIGN CHOICE (log 15), for R51 is silent on white space: spaces and tabs separate words and mean nothing else; a
comma, a character literal and `--` end the word before them without any white space, so that `RESET_ADDRESS'A'` is
`RESET_ADDRESS 'A'`; the first `--` outside a literal begins the comment; and a quote that begins no literal of exactly
one character is a character of a word, which is then no mnemonic and no number. -/
def asmLex : List Char → List Char → List AsmToken
  | acc, [] => asmFlush acc []
  | acc, '-' :: '-' :: _ => asmFlush acc []
  | acc, '\'' :: c :: '\'' :: rest => asmFlush acc (.literal c :: asmLex [] rest)
  | acc, c :: rest =>
    if c = ',' then asmFlush acc (.comma :: asmLex [] rest)
    else if c = ' ' ∨ c = '\t' then asmFlush acc (asmLex [] rest)
    else asmLex (c :: acc) rest

/-- The value of a digit below 16; letters in either case are this model's choice (log 15). -/
def asmDigit (c : Char) : Option Nat :=
  if '0' ≤ c ∧ c ≤ '9' then some (c.toNat - '0'.toNat)
  else if 'a' ≤ c ∧ c ≤ 'f' then some (c.toNat - 'a'.toNat + 10)
  else if 'A' ≤ c ∧ c ≤ 'F' then some (c.toNat - 'A'.toNat + 10)
  else none

/-- The number that digits write in a base, `n` being the digits before them. -/
def asmDigits (base : Nat) : Nat → List Char → Option Nat
  | n, [] => some n
  | n, c :: cs =>
    match asmDigit c with
    | some d => if d < base then asmDigits base (n * base + d) cs else none
    | none => none

/-- A number: a decimal with an optional minus sign, or `0x` and hexadecimal digits (R51). No plus sign, no minus sign
before `0x`, no capital `X`: this model's choice (log 15). -/
def asmNumber : List Char → Option Int
  | [] => none
  | ['0', 'x'] => none
  | '0' :: 'x' :: cs => (asmDigits 16 0 cs).map Int.ofNat
  | ['-'] => none
  | '-' :: cs => (asmDigits 10 0 cs).map fun n => -(n : Int)
  | cs => (asmDigits 10 0 cs).map Int.ofNat

/-- The integer that one token writes: a character literal stands for its ASCII code (R51); a character without one,
128 or above, is rejected (log 15). -/
def asmArgument : AsmToken → Option Int
  | .word cs => asmNumber cs
  | .literal c => if c.toNat < 128 then some (c.toNat : Int) else none
  | .comma => none

/-- The arguments after a mnemonic, separated by commas. -/
def asmArguments : List AsmToken → Except AsmError (List Int)
  | [] => .ok []
  | [t] =>
    match asmArgument t with
    | some v => .ok [v]
    | none => .error .badNumber
  | t :: .comma :: rest =>
    match asmArgument t, rest.isEmpty, asmArguments rest with
    | _, true, _ => .error .badArguments
    | none, _, _ => .error .badNumber
    | some _, _, .error e => .error e
    | some v, _, .ok vs => .ok (v :: vs)
  | _ :: _ :: _ => .error .badArguments

/-- How many arguments are written after a mnemonic, with the line they make (R51). -/
def asmBuild (mnemonic : List Char) (args : List Int) : Except AsmError AsmLine :=
  if mnemonic = "SET".toList then
    match args with | [a0, a1] => .ok (.set a0 a1) | _ => .error .badArguments
  else if mnemonic = "SET_RELAY".toList then
    match args with | [a0, a1] => .ok (.setRelay a0 a1) | _ => .error .badArguments
  else if mnemonic = "CLEAR_RELAY".toList then
    match args with | [a0, a1] => .ok (.clearRelay a0 a1) | _ => .error .badArguments
  else if mnemonic = "TOGGLE_RELAY".toList then
    match args with | [a0, a1] => .ok (.toggleRelay a0 a1) | _ => .error .badArguments
  else if mnemonic = "EMERGENCY_STOP".toList then
    match args with | [] => .ok .emergencyStop | _ => .error .badArguments
  else if mnemonic = "DISPLAY_ADDRESS".toList then
    match args with | [] => .ok .displayAddress | _ => .error .badArguments
  else if mnemonic = "SET_ADDRESS".toList then
    match args with | [a0, a1] => .ok (.setAddress a0 a1) | _ => .error .badArguments
  else if mnemonic = "RESET_ADDRESS".toList then
    match args with | [a0] => .ok (.resetAddress a0) | _ => .error .badArguments
  else if mnemonic = "UNHANDLED".toList then
    match args with | [n] => .ok (.unhandled n) | _ => .error .badArguments
  else .error .unknownMnemonic

/-- The command that a line writes; none for a line that is empty or all comment (log 15). -/
def parseLine (cs : List Char) : Except AsmError (Option AsmLine) :=
  match asmLex [] cs with
  | [] => .ok none
  | .word m :: ts =>
    match asmArguments ts with
    | .error e => .error e
    | .ok args =>
      match asmBuild m args with
      | .error e => .error e
      | .ok l => .ok (some l)
  | _ => .error .unknownMnemonic

/-! ## From lines to commands -/

/-- An omitted argument is assembled as 0 (R51). -/
def AsmLine.instr : AsmLine → Instr
  | .set a0 a1 => .set a0 a1
  | .setRelay a0 a1 => .setRelay a0 a1
  | .clearRelay a0 a1 => .clearRelay a0 a1
  | .toggleRelay a0 a1 => .toggleRelay a0 a1
  | .emergencyStop => .emergencyStop 0 0
  | .displayAddress => .displayAddress 0 0
  | .setAddress a0 a1 => .setAddress a0 a1
  | .resetAddress a0 => .resetAddress a0 0
  | .unhandled n => .unhandled (BitVec.ofInt 4 n) 0 0

/-- Whether the code of an UNHANDLED line is one of 8 to 15 (R51); true of every other line. -/
def AsmLine.codeOk : AsmLine → Bool
  | .unhandled n => decide (8 ≤ n) && decide (n ≤ 15)
  | _ => true

/-- The command of a line, checked against the argument width. That an argument which `argw` bits cannot hold is
rejected, rather than cut to `argw` bits, is this model's choice (log 15). -/
def AsmLine.assemble (argw : Nat) (l : AsmLine) : Except AsmError Instr :=
  if !l.codeOk then .error .badCode
  else if l.instr.wellFormed argw then .ok l.instr
  else .error .argumentOutOfRange

/-- The flat command word of a line: `{op, a0 as ARGW bits, a1 as ARGW bits}` (R51). -/
def AsmLine.word (argw : Nat) (l : AsmLine) : Except AsmError (BitVec (flatBits argw)) :=
  match l.assemble argw with
  | .error e => .error e
  | .ok i => .ok (encodeWord argw i)

/-- The commands of a text, one command per line (R51); that the first bad line rejects the whole text is this model's
choice (log 15). -/
def assembleText (argw : Nat) : List (List Char) → Except AsmError (List Instr)
  | [] => .ok []
  | cs :: rest =>
    match parseLine cs with
    | .error e => .error e
    | .ok none => assembleText argw rest
    | .ok (some l) =>
      match l.assemble argw, assembleText argw rest with
      | .error e, _ => .error e
      | .ok _, .error e => .error e
      | .ok i, .ok is => .ok (i :: is)

end Sys2Proof.Machine
end

