-- ==== Sys2Proof/Machine/Nets.lean ====
section
/-! DEFINITION. The block as a datapath: the internal nets that the spec names (40_checksum.md R64,
41_relay_validator.md R74, 42_frame_encoder.md R84) and the operation mux as its select table (43_operations.md R100),
bit level, at every argument width. Nets hold no state (10_state.md R23). -/

namespace Sys2Proof.Machine

/-- The nets of U1 (R64). -/
structure ChecksumNets where
  chkB0 : Byte
  chkB1 : Byte
  chkB2 : Byte
  chkB3 : Byte
  chkOut : Byte
  deriving DecidableEq, Repr

/-- U1 as three 8-bit adders, eight inverters and an incrementer, carries out unconnected (R64). -/
def checksumNets (b0 b1 b2 b3 : Byte) : ChecksumNets where
  chkB0 := b0
  chkB1 := b1
  chkB2 := b2
  chkB3 := b3
  chkOut := ~~~(b0 + b1 + b2 + b3) + 1#8

/-- The nets of U2 (R74). -/
structure ValidatorNets (argw : Nat) where
  rcIndex : BitVec argw
  rcValid : Bool
  rcCode : Byte
  rcDiag : Bool
  deriving DecidableEq, Repr

/-- U2 as two signed comparators against 1 and 8, an AND gate, and `0x30 OR index[3:0]` forced to zero when the index
is invalid (R74). -/
def validatorNets {argw : Nat} (index : BitVec argw) : ValidatorNets argw where
  rcIndex := index
  rcValid := (1#argw).sle index && index.sle 8#argw
  rcCode :=
    if (1#argw).sle index && index.sle 8#argw then 0x30#8 ||| (index.extractLsb' 0 4).setWidth 8 else 0x00#8
  rcDiag := !((1#argw).sle index && index.sle 8#argw)

/-- The nets of U3's pack, with its instance of U1 (R84). -/
structure EncoderNets where
  encAddr : Byte
  encInstr : Byte
  encValue : Byte
  chk : ChecksumNets
  encFrame : Frame
  deriving DecidableEq, Repr

/-- U3's pack: wiring plus U1 (R84). -/
def encoderNets (addr instr value : Byte) : EncoderNets where
  encAddr := addr
  encInstr := instr
  encValue := value
  chk := checksumNets 0x0D addr instr value
  encFrame := ⟨0x0D, addr, instr, value, (checksumNets 0x0D addr instr value).chkOut⟩

/-- What the operation mux routes to the pack for one operation code: address, instruction byte, value (R100). -/
structure MuxSelect where
  addr : Byte
  instr : Byte
  value : Byte
  deriving DecidableEq, Repr

/-- The select table of the operation mux (R100): `A0`, `A1` are the low eight bits of the arguments and `code` is
`rc_code`. For codes 8 to 15 the table says '(unused)' and no value is given to the encoder's inputs (log 14). -/
def muxSelect (op : BitVec 4) (A0 A1 code : Byte) : Option MuxSelect :=
  match op with
  | 0#4 => some ⟨A0, 0x42, A1⟩
  | 1#4 => some ⟨A0, 0x53, A1⟩
  | 2#4 => some ⟨A0, 0x43, code⟩
  | 3#4 => some ⟨A0, 0x54, code⟩
  | 4#4 => some ⟨0x00, 0x45, 0x00⟩
  | 5#4 => some ⟨0x00, 0x44, 0x00⟩
  | 6#4 => some ⟨A0, 0x54, A1⟩
  | 7#4 => some ⟨0x00, 0x41, A0⟩
  | _ => none

/-- All internal nets of the block for one command on the ports. -/
structure Nets (argw : Nat) where
  needsVal : Bool
  unhandled : Bool
  invalid : Bool
  u2 : ValidatorNets argw
  u3 : Option EncoderNets
  deriving DecidableEq, Repr

/-- The nets for the command on the ports (R100): `needs_val`, `unhandled`, `invalid`, U2 fed by `cmd_a1`, and the pack
fed by the mux. -/
def nets {argw : Nat} (c : Cmd argw) : Nets argw where
  needsVal := c.op == 1#4 || c.op == 2#4 || c.op == 3#4
  unhandled := c.op.getLsbD 3
  invalid := (c.op == 1#4 || c.op == 2#4 || c.op == 3#4) && !(validatorNets c.a1).rcValid
  u2 := validatorNets c.a1
  u3 :=
    (muxSelect c.op (c.a0.extractLsb' 0 8) (c.a1.extractLsb' 0 8) (validatorNets c.a1).rcCode).map
      fun m => encoderNets m.addr m.instr m.value

/-- The response that the nets present to the registers (R100): none where neither error net is 1 and the pack has no
inputs, which no operation code gives. -/
def Nets.response {argw : Nat} (n : Nets argw) : Option Response :=
  if n.unhandled then some (.error .unhandled)
  else if n.invalid then some (.error .invalidIndex)
  else n.u3.map fun e => .frame e.encFrame

end Sys2Proof.Machine
end

