-- ==== Sys2Proof/Machine/FrameReading.lean ====
section
/-! DEFINITION. Reading a frame back (30_encoding.md R54): which commands produce five given bytes. The block has no
such input; the rule is for test benches. -/

namespace Sys2Proof.Machine

/-- What a frame says of a command that produces it: the operation, the low byte of an argument that was truncated,
and the relay index where there is one (R54). -/
inductive FrameReading where
  | set (a0 a1 : Byte)
  | setRelay (a0 : Byte) (index : Nat)
  | clearRelay (a0 : Byte) (index : Nat)
  | toggleRelay (a0 : Byte) (index : Nat)
  | emergencyStop
  | displayAddress
  | setAddress (a0 a1 : Byte)
  | resetAddress (a0 : Byte)
  deriving DecidableEq, Repr

/-- Whether a value byte is one of the relay codes `0x31` to `0x38` (30_encoding.md R47). -/
def isRelayCode (v : Byte) : Bool := decide (0x31 ≤ v.toNat) && decide (v.toNat ≤ 0x38)

/-- Whether a value byte is a raw relay index, 1 to 8. -/
def isRawIndex (v : Byte) : Bool := decide (1 ≤ v.toNat) && decide (v.toNat ≤ 8)

/-- The readings of the instruction byte, the address and the value of a frame (R54): two for `'T'` with a relay code
as its value, none for bytes that no command produces. -/
def bodyReadings (a ins v : Byte) : List FrameReading :=
  if ins = 0x42 then [.set a v]
  else if ins = 0x53 then (if isRawIndex v then [.setRelay a v.toNat] else [])
  else if ins = 0x43 then (if isRelayCode v then [.clearRelay a (v.toNat - 0x30)] else [])
  else if ins = 0x54 then .setAddress a v :: (if isRelayCode v then [.toggleRelay a (v.toNat - 0x30)] else [])
  else if ins = 0x45 then (if a = 0 ∧ v = 0 then [.emergencyStop] else [])
  else if ins = 0x44 then (if a = 0 ∧ v = 0 then [.displayAddress] else [])
  else if ins = 0x41 then (if a = 0 then [.resetAddress v] else [])
  else []

/-- The readings of five bytes (R54): none unless byte 0 is 13 and byte 4 is the checksum of the other four. -/
def frameReadings (f : Frame) : List FrameReading :=
  if f.isEncoded then bodyReadings f.b1 f.b2 f.b3 else []

/-- What reading back the frame of a command should say (R54); the unhandled command has no frame. -/
def readingOf (i : Instr) : Option FrameReading :=
  match i with
  | .set a0 a1 => some (.set (trunc8 a0) (trunc8 a1))
  | .setRelay a0 a1 => some (.setRelay (trunc8 a0) a1.toNat)
  | .clearRelay a0 a1 => some (.clearRelay (trunc8 a0) a1.toNat)
  | .toggleRelay a0 a1 => some (.toggleRelay (trunc8 a0) a1.toNat)
  | .emergencyStop _ _ => some .emergencyStop
  | .displayAddress _ _ => some .displayAddress
  | .setAddress a0 a1 => some (.setAddress (trunc8 a0) (trunc8 a1))
  | .resetAddress a0 _ => some (.resetAddress (trunc8 a0))
  | .unhandled _ _ _ => none

end Sys2Proof.Machine
end

