-- ==== Sys2Proof/Machine/Edge.lean ====
section
/-! DEFINITION. The block as the spec's own two functions, at every argument width: `execResponse`, the combinational
function EXEC from a command to a response (43_operations.md R90), and `edge`, the register update of one rising edge
(10_state.md R19). They stand beside `exec` and `step`, which the machine runs; that the two agree is for a proof. -/

namespace Sys2Proof.Machine

/-- `EXEC(op, a0, a1)` (R90): total, and it reads nothing but its three operands. -/
def execResponse (op : BitVec 4) (a0 a1 : Int) : Response :=
  if op = 0 then opSet a0 a1
  else if op = 1 then opSetRelay a0 a1
  else if op = 2 then opClearRelay a0 a1
  else if op = 3 then opToggleRelay a0 a1
  else if op = 4 then opEmergencyStop
  else if op = 5 then opDisplayAddress
  else if op = 6 then opSetAddress a0 a1
  else if op = 7 then opResetAddress a0
  else opUnhandled

/-- The response to the command on the ports (R19): the arguments are read as signed integers. -/
def Cmd.response {argw : Nat} (c : Cmd argw) : Response :=
  execResponse c.op (sint c.a0) (sint c.a1)

/-- The registers after one rising edge, from the port sample and the registers before it (R19), for a block that has
been reset or is being reset. -/
def edge {argw : Nat} (p : PortSample argw) (r : Registers) : Registers :=
  if p.rst then Registers.reset
  else if p.cmdValid then (Cmd.response p.cmd).registers
  else { r with rv := false }

/-- The registers after the edges of a list of samples, in order (20_memory.md R35). -/
def edges {argw : Nat} (ps : List (PortSample argw)) (r : Registers) : Registers :=
  ps.foldl (fun r p => edge p r) r

/-- Whether a command is accepted at an edge: `rst = 0` and `cmd_valid = 1` (R18). -/
def PortSample.accepts {argw : Nat} (p : PortSample argw) : Bool :=
  !p.rst && p.cmdValid

end Sys2Proof.Machine
end

