-- ==== Sys2Proof/Machine/Outputs.lean ====
section
/-! DEFINITION. The output ports (10_state.md R11) as functions of the registers alone (R20). -/

namespace Sys2Proof.Machine

/-- The output ports (R11). -/
structure Outputs where
  frameB0 : Byte
  frameB1 : Byte
  frameB2 : Byte
  frameB3 : Byte
  frameB4 : Byte
  frameO : BitVec 40
  frameValid : Bool
  diagInvalid : Bool
  diagUnhandled : Bool
  rspValid : Bool
  rspKind : BitVec 2
  deriving DecidableEq, Repr

/-- `frame_o`: byte `i` at bits `[8*i+7 : 8*i]`, byte 0 in the low bits (R20, 20_memory.md R31). -/
def Frame.packed (f : Frame) : BitVec 40 :=
  f.b4 ++ f.b3 ++ f.b2 ++ f.b1 ++ f.b0

/-- The outputs (R20): no input reaches them combinationally, and reading them changes nothing (20_memory.md R33). -/
def outputs (r : Registers) : Outputs where
  frameB0 := r.frame.b0
  frameB1 := r.frame.b1
  frameB2 := r.frame.b2
  frameB3 := r.frame.b3
  frameB4 := r.frame.b4
  frameO := r.frame.packed
  frameValid := r.fv
  diagInvalid := r.einv
  diagUnhandled := r.eunh
  rspValid := r.rv
  rspKind := rspKind r.fv r.einv r.eunh

/-- Reading the outputs: refused before the first reset step, when no register has a specified value
(10_state.md R24; U1). -/
def observe (s : State) : Except Refusal Outputs :=
  if s.resetSeen then .ok (outputs s.regs) else .error .beforeReset

end Sys2Proof.Machine
end

