-- ==== Sys2Proof/Machine/Program.lean ====
section
/-! DEFINITION. A program is a finite sequence of commands (30_encoding.md R53): the port samples that run it, its
responses, and the tally of responses that the host takes by sampling the outputs (70_reset_and_hazards.md R150). -/

namespace Sys2Proof.Machine

/-- The port samples of a command after `gap` idle edges (R53, R146). -/
def commandAfter {argw : Nat} (gap : Nat) (c : Cmd argw) : List (PortSample argw) :=
  List.replicate gap (idleSample argw) ++ [commandSample c]

/-- The port samples of a sequence of commands, each after its own number of idle edges. -/
def commandSamples {argw : Nat} (cs : List (Nat × Cmd argw)) : List (PortSample argw) :=
  cs.flatMap fun gc => commandAfter gc.1 gc.2

/-- The port samples that run a program (R53): one reset step, then its commands in order, with any number of idle
edges before each of them. -/
def programSamples {argw : Nat} (cs : List (Nat × Cmd argw)) : List (PortSample argw) :=
  resetSample argw :: commandSamples cs

/-- The responses of a program, one for each command, each from its own command alone (R53). -/
def programResponses {argw : Nat} (cs : List (Nat × Cmd argw)) : List Response :=
  cs.map fun gc => Cmd.response gc.2

/-- The outputs after each edge, in order. -/
def outputTrace {argw : Nat} : List (PortSample argw) → Registers → List Outputs
  | [], _ => []
  | p :: ps, r => outputs (edge p r) :: outputTrace ps (edge p r)

/-- What the ports show of a response in the cycle after its command. -/
def Response.outputs (r : Response) : Outputs := Machine.outputs r.registers

/-- How many responses of each kind the host has counted (10_state.md R18). -/
structure Tally where
  frames : Nat
  invalidIndex : Nat
  unhandled : Nat
  deriving DecidableEq, Repr

/-- One sample of the outputs: counted exactly when `rsp_valid = 1` (70_reset_and_hazards.md R150). -/
def Tally.sample (t : Tally) (o : Outputs) : Tally :=
  if o.rspValid then
    { frames := t.frames + o.frameValid.toNat
      invalidIndex := t.invalidIndex + o.diagInvalid.toNat
      unhandled := t.unhandled + o.diagUnhandled.toNat }
  else t

/-- The tally of a run of cycles, one sample for each. -/
def tallyOutputs (os : List Outputs) : Tally :=
  os.foldl Tally.sample ⟨0, 0, 0⟩

/-- The responses to the commands that a list of port samples has accepted, in order: a command at a reset edge is lost
(10_state.md R19). -/
def acceptedResponses {argw : Nat} (ps : List (PortSample argw)) : List Response :=
  (ps.filter PortSample.accepts).map fun p => Cmd.response p.cmd

/-- The number of each kind among some responses. -/
def tallyResponses (rs : List Response) : Tally where
  frames := rs.countP Response.fv
  invalidIndex := rs.countP Response.einv
  unhandled := rs.countP Response.eunh

/-- Whether a command was accepted after the last reset edge of a list of samples (10_state.md R21 (b)). -/
def acceptedSinceReset {argw : Nat} (ps : List (PortSample argw)) : Bool :=
  ps.foldl (fun seen p => !p.rst && (p.cmdValid || seen)) false

end Sys2Proof.Machine
end

