-- ==== Sys2Proof/Machine/HostContract.lean ====
section
/-! DEFINITION. The host's duties at the block's interface (70_reset_and_hazards.md R143, R147, R148, R150), as a
system of the block and the consumer of its responses that refuses what the spec calls a host error (U5 and U11 of
93_implementation_defined.md). The block alone never refuses any of it: a new command simply replaces the response
(10_state.md R19). The Transmitter itself is out of scope (00_scope.md R4): it is met only as the holder of a frame. -/

namespace Sys2Proof.Machine

/-- A host error: what a model that includes the host refuses. -/
inductive ContractError where
  /-- an edge without reset, or a read, before the first reset step (R143) -/
  | beforeReset
  /-- transmitting the frame registers while `FV = 0` (R147; U5) -/
  | transmitWithoutFrame
  /-- a command accepted while the consumer still uses the previous frame (R148; U11) -/
  | overrun
  deriving DecidableEq, Repr

/-- The five bytes that the host may hand to the Transmitter, byte 0 first, unchanged: only while `FV = 1`
(R147; 10_state.md R15). -/
def handOver (s : State) : Except ContractError (List Byte) :=
  if !s.resetSeen then .error .beforeReset
  else if s.regs.fv then
    .ok [s.regs.frame.b0, s.regs.frame.b1, s.regs.frame.b2, s.regs.frame.b3, s.regs.frame.b4]
  else .error .transmitWithoutFrame

/-- The block together with its consumer: whether the consumer still uses the frame registers, the frames handed over
so far (oldest first), and the diagnostics emitted so far (R147). The busy mark and the counters are DESIGN CHOICE
(log 11): the spec defines no handshake. -/
structure HostSystem where
  cfb : State
  busy : Bool
  handed : List (List Byte)
  invalidDiagnostics : Nat
  unhandledDiagnostics : Nat
  deriving DecidableEq, Repr

/-- The consumer's duty in one cycle: a frame is handed over once, or nothing is transmitted and one diagnostic is emitted
(R147). A diagnostic is sampled in the cycle with `rsp_valid = 1` (R150).

DESIGN CHOICE (log 11): the frame is handed over in that same cycle, and the consumer is busy with it from there on. R147
says that it is handed over once and names no cycle; a host may do it in any later cycle in which the response stands. -/
def HostSystem.serve (h : HostSystem) : HostSystem :=
  if h.cfb.regs.rv then
    match handOver h.cfb with
    | .ok bytes => { h with busy := true, handed := h.handed ++ [bytes] }
    | .error _ =>
      { h with
        invalidDiagnostics := h.invalidDiagnostics + h.cfb.regs.einv.toNat
        unhandledDiagnostics := h.unhandledDiagnostics + h.cfb.regs.eunh.toNat }
  else h

/-- The consumer has finished with the frame, or has copied its five bytes out (R148); that it says so by this operation,
at any time, is DESIGN CHOICE (log 11). -/
def HostSystem.release (h : HostSystem) : HostSystem :=
  { h with busy := false }

/-- One rising edge of the whole system: refused as an overrun when it would accept a command while the consumer is
busy (R148); otherwise the block steps and the consumer serves the new cycle. -/
def HostSystem.edge (h : HostSystem) : Except ContractError HostSystem :=
  if h.busy && (nextSample h.cfb).accepts then .error .overrun
  else
    match step h.cfb with
    | .next s => .ok (HostSystem.serve { h with cfb := s })
    | .fault f => nomatch f
    | .refused _ => .error .beforeReset

end Sys2Proof.Machine
end

