-- ==== Sys2Proof/Safety.lean ====
section
/-! DEFINITION. What counts as a good state and a safe run, in the terms the statements use: the invariants of
10_state.md R21, the frames the block can show (30_encoding.md R50, R54), and stopping. -/

namespace Sys2Proof.Safety

open Sys2Proof.Machine

/-- How many of the three response flags are 1. -/
def flagCount (r : Registers) : Nat := r.fv.toNat + r.einv.toNat + r.eunh.toNat

/-- The invariants (a), (c), (d), (e) of 10_state.md R21 on the register set; (b) speaks of the history and is stated
over runs. -/
def RegistersOk (r : Registers) : Prop :=
  flagCount r ≤ 1 ∧
  (r.fv = true → r.frame.b0 = 13 ∧ r.frame.sum8 = 0) ∧
  (r.fv = false → r.frame = Frame.zero) ∧
  (r.rv = true → flagCount r = 1)

/-- The invariant of every state, also before the first reset step, when no register has a specified value
(10_state.md R21, R24). -/
def StateOk (s : State) : Prop := s.resetSeen = true → RegistersOk s.regs

/-- While `FV = 1` the frame registers hold a frame that some command produces (30_encoding.md R50, R54). -/
def Producible (s : State) : Prop :=
  s.resetSeen = true → s.regs.fv = true → frameReadings s.regs.frame ≠ []

/-- A step goes on: it neither faults nor refuses (60_exceptions.md R128). -/
def Goes (s : State) : Prop := ∃ t, step s = .next t

end Sys2Proof.Safety
end

