-- ==== Sys2Proof/Certificates/Slice0/Obligations.lean ====
section
/-! DEFINITION. The statements for the provers. Each docstring names the rules of spec/ a statement formalises; where a
clause rests on a choice of this model, it names the log entry. -/

namespace Sys2Proof.Stated

open Sys2Proof Sys2Proof.Machine

/-- Five bytes given by integer arithmetic alone, without the units of the model: 13, the low bytes of address,
instruction and value, and the byte that makes the sum of all five 0 modulo 256. -/
def frameOf (address instruction value : Int) : Frame :=
  ⟨13, BitVec.ofInt 8 address, BitVec.ofInt 8 instruction, BitVec.ofInt 8 value,
    BitVec.ofInt 8 (-(13 + address + instruction + value))⟩

/-- The registers right after a command whose result is the frame `f` (10_state.md R19). -/
def shown (f : Frame) : Registers := ⟨f, true, false, false, true⟩

/-- The registers right after a command whose result is InvalidIndex (60_exceptions.md R120). -/
def invalidShown : Registers := ⟨⟨0, 0, 0, 0, 0⟩, false, true, false, true⟩

/-- The registers right after a command whose result is Unhandled (60_exceptions.md R121). -/
def unhandledShown : Registers := ⟨⟨0, 0, 0, 0, 0⟩, false, false, true, true⟩

/-- The registers right after a reset step (10_state.md R24). -/
def resetShown : Registers := ⟨⟨0, 0, 0, 0, 0⟩, false, false, false, false⟩

/-- A relay index: an integer from 1 to 8 (41_relay_validator.md R70). -/
def isIndex (n : Int) : Prop := 1 ≤ n ∧ n ≤ 8

/-- Two port samples, of blocks of any two widths, carry the same: the same `rst`, `cmd_valid` and `cmd_op`, and
arguments that denote the same integers (00_scope.md R6). -/
def sameSample {m n : Nat} (p : PortSample m) (q : PortSample n) : Prop :=
  p.rst = q.rst ∧ p.cmdValid = q.cmdValid ∧ p.cmd.op = q.cmd.op ∧ sint p.cmd.a0 = sint q.cmd.a0 ∧
    sint p.cmd.a1 = sint q.cmd.a1

/-- `b + b' + …` as natural numbers, for four bytes. -/
def sum4 (b0 b1 b2 b3 : Byte) : Nat := b0.toNat + b1.toNat + b2.toNat + b3.toNat

end Sys2Proof.Stated

open Sys2Proof Sys2Proof.Machine Sys2Proof.Safety Sys2Proof.Stated

/-! ## Encodings (30_encoding.md) -/

/-- Decoding the flat word of a well-formed command gives the command back, at every argument width: no bit of an
operand is dropped (R40 to R42, R51). -/
def Obligations.DecodeOfEncodedCommand : Prop :=
  ∀ (argw : Nat) (i : Instr), 8 ≤ argw → i.wellFormed argw = true → decodeWord argw (encodeWord argw i) = i

/-- Every flat word is a well-formed command, and encoding that command gives the word back, at every argument width
(R40, R49: every code and every argument pattern has a meaning). -/
def Obligations.EncodeOfDecodedWord : Prop :=
  ∀ (argw : Nat) (w : BitVec (flatBits argw)), 8 ≤ argw →
    (decodeWord argw w).wellFormed argw = true ∧ encodeWord argw (decodeWord argw w) = w

/-- The byte image of a well-formed command decodes to it and leaves the bytes after it, and bytes that are too few or
have a bit above the flat word are refused by name. The image is this model's choice (log 6): the spec stores no
command. -/
def Obligations.ByteImageRoundTrip : Prop :=
  ∀ (argw : Nat) (i : Instr) (rest : List Byte), 8 ≤ argw → i.wellFormed argw = true →
    decodeBytes argw (encodeBytes argw i ++ rest) = .ok (i, rest) ∧
    (∀ bs : List Byte, bs.length < (2 * argw + 4 + 7) / 8 → decodeBytes argw bs = .error .shortImage) ∧
    (∀ bs : List Byte, bs.length = (2 * argw + 4 + 7) / 8 → 2 ^ (2 * argw + 4) ≤ bytesWord bs →
      decodeBytes argw (bs ++ rest) = .error .padding)

/-- The two formats (R40): where `op`, `a0` and `a1` stand in the flat command word, and where the five bytes of a
frame, the first the constant 13 and the last the checksum of the other four, stand on `frame_o`. -/
def Obligations.FormatsOfCommandAndFrame : Prop :=
  (∀ (argw : Nat) (c : Cmd argw), 8 ≤ argw →
    c.flat.extractLsb' (2 * argw) 4 = c.op ∧ c.flat.extractLsb' argw argw = c.a0 ∧ c.flat.extractLsb' 0 argw = c.a1 ∧
    Cmd.ofFlat c.flat = c) ∧
  (∀ address instruction value : Byte,
    (encodeFrame address instruction value).packed.extractLsb' 0 8 = 13 ∧
    (encodeFrame address instruction value).packed.extractLsb' 8 8 = address ∧
    (encodeFrame address instruction value).packed.extractLsb' 16 8 = instruction ∧
    (encodeFrame address instruction value).packed.extractLsb' 24 8 = value ∧
    (encodeFrame address instruction value).packed.extractLsb' 32 8 = chk 13 address instruction value)

/-- What each operation code selects, whatever the arguments, and the instruction byte that the operation emits (R41). -/
def Obligations.OperationCodesSelect : Prop :=
  ∀ (a0 a1 : Int),
    decodeOp 0 a0 a1 = .set a0 a1 ∧ decodeOp 1 a0 a1 = .setRelay a0 a1 ∧ decodeOp 2 a0 a1 = .clearRelay a0 a1 ∧
    decodeOp 3 a0 a1 = .toggleRelay a0 a1 ∧ decodeOp 4 a0 a1 = .emergencyStop a0 a1 ∧
    decodeOp 5 a0 a1 = .displayAddress a0 a1 ∧ decodeOp 6 a0 a1 = .setAddress a0 a1 ∧
    decodeOp 7 a0 a1 = .resetAddress a0 a1 ∧
    (∀ op : BitVec 4, op.getLsbD 3 = true → decodeOp op a0 a1 = .unhandled op a0 a1) ∧
    (∀ (op : BitVec 4) (s t : State), exec (decodeOp op a0 a1) s = .next t →
      t.regs.fv = true →
      [0x42#8, 0x53#8, 0x43#8, 0x54#8, 0x45#8, 0x44#8, 0x54#8, 0x41#8][op.toNat]? = some t.regs.frame.b2) ∧
    (∀ (op : BitVec 4) (s t : State), op.getLsbD 3 = true → exec (decodeOp op a0 a1) s = .next t → t.regs.fv = false)

/-- Words written out from the spec's own listings decode to the commands they stand for (95_test_vectors.md 2.4, one
word of each row of the table). -/
def Obligations.ListedWordsDecode : Prop :=
  decodeTableWord 72 0x00000000100000005 = some (.set 1 5) ∧
  decodeTableWord 72 0x10000000500000003 = some (.setRelay 5 3) ∧
  decodeTableWord 72 0x2FFFFFFFF00000008 = some (.clearRelay (-1) 8) ∧
  decodeTableWord 72 0x30000000700000002 = some (.toggleRelay 7 2) ∧
  decodeTableWord 72 0x4000000370000004D = some (.emergencyStop 55 77) ∧
  decodeTableWord 72 0x5FFFFFFFD00000009 = some (.displayAddress (-3) 9) ∧
  decodeTableWord 72 0x600000063FFFFFF80 = some (.setAddress 99 (-128)) ∧
  decodeTableWord 72 0x7000000050000007B = some (.resetAddress 5 123) ∧
  decodeTableWord 72 0xCFFFFFFFFFFFFFFFF = some (.unhandled 12 (-1) (-1))

/-- Two operations share the instruction byte `'T'`, and SET_RELAY sends the raw index where CLEAR_RELAY and
TOGGLE_RELAY send the relay code (R48). -/
def Obligations.SharedLetterAndRawIndex : Prop :=
  ∀ (a0 i : Int) (s : State), isIndex i →
    (∃ t, exec (.toggleRelay a0 i) s = .next t ∧ exec (.setAddress a0 (0x30 + i)) s = .next t) ∧
    (∃ t, exec (.setRelay a0 i) s = .next t ∧ (t.regs.frame.b3.toNat : Int) = i) ∧
    (∃ t, exec (.clearRelay a0 i) s = .next t ∧ (t.regs.frame.b3.toNat : Int) = 0x30 + i) ∧
    (∃ t, exec (.toggleRelay a0 i) s = .next t ∧ (t.regs.frame.b3.toNat : Int) = 0x30 + i) ∧
    exec (.toggleRelay 1 1) s = .next { s with regs := shown ⟨0x0D, 0x01, 0x54, 0x31, 0x6D⟩ } ∧
    exec (.setAddress 1 49) s = .next { s with regs := shown ⟨0x0D, 0x01, 0x54, 0x31, 0x6D⟩ }

/-- The assembler: a written command assembles to `{op, a0, a1}` with omitted arguments 0, a code of UNHANDLED outside 8
to 15 is rejected, an argument that does not fit is rejected wherever a form has one, and sample lines of R51's forms
parse. That a line of another kind is rejected at all, and under which name, is this model's choice (log 15): R51 lists
the forms and says of no other text what becomes of it. -/
def Obligations.AssemblerWords : Prop :=
  (∀ (argw : Nat) (a0 a1 : Int), 8 ≤ argw → argInRange argw a0 = true → argInRange argw a1 = true →
    (AsmLine.set a0 a1).word argw = .ok (Cmd.flat ⟨0, BitVec.ofInt argw a0, BitVec.ofInt argw a1⟩) ∧
    (AsmLine.setRelay a0 a1).word argw = .ok (Cmd.flat ⟨1, BitVec.ofInt argw a0, BitVec.ofInt argw a1⟩) ∧
    (AsmLine.clearRelay a0 a1).word argw = .ok (Cmd.flat ⟨2, BitVec.ofInt argw a0, BitVec.ofInt argw a1⟩) ∧
    (AsmLine.toggleRelay a0 a1).word argw = .ok (Cmd.flat ⟨3, BitVec.ofInt argw a0, BitVec.ofInt argw a1⟩) ∧
    AsmLine.emergencyStop.word argw = .ok (Cmd.flat ⟨4, 0, 0⟩) ∧
    AsmLine.displayAddress.word argw = .ok (Cmd.flat ⟨5, 0, 0⟩) ∧
    (AsmLine.setAddress a0 a1).word argw = .ok (Cmd.flat ⟨6, BitVec.ofInt argw a0, BitVec.ofInt argw a1⟩) ∧
    (AsmLine.resetAddress a0).word argw = .ok (Cmd.flat ⟨7, BitVec.ofInt argw a0, 0⟩)) ∧
  (∀ (argw : Nat) (n : Int), 8 ≤ argw →
    (8 ≤ n ∧ n ≤ 15 → (AsmLine.unhandled n).word argw = .ok (Cmd.flat ⟨BitVec.ofInt 4 n, 0, 0⟩)) ∧
    (n < 8 ∨ 15 < n → (AsmLine.unhandled n).word argw = .error .badCode)) ∧
  (∀ (argw : Nat) (a0 a1 : Int), 8 ≤ argw → argInRange argw a0 = false ∨ argInRange argw a1 = false →
    (AsmLine.set a0 a1).word argw = .error .argumentOutOfRange ∧
    (AsmLine.setRelay a0 a1).word argw = .error .argumentOutOfRange ∧
    (AsmLine.clearRelay a0 a1).word argw = .error .argumentOutOfRange ∧
    (AsmLine.toggleRelay a0 a1).word argw = .error .argumentOutOfRange ∧
    (AsmLine.setAddress a0 a1).word argw = .error .argumentOutOfRange) ∧
  (∀ (argw : Nat) (a0 : Int), 8 ≤ argw → argInRange argw a0 = false →
    (AsmLine.resetAddress a0).word argw = .error .argumentOutOfRange) ∧
  parseLine "SET             1, 5      -- frame".toList = .ok (some (.set 1 5)) ∧
  parseLine "SET_ADDRESS     -1, 0x31".toList = .ok (some (.setAddress (-1) 49)) ∧
  parseLine "RESET_ADDRESS   'A'".toList = .ok (some (.resetAddress 65)) ∧
  parseLine "EMERGENCY_STOP".toList = .ok (some .emergencyStop) ∧
  parseLine "UNHANDLED       9".toList = .ok (some (.unhandled 9)) ∧
  parseLine "-- no command".toList = .ok none

/-- Reading a frame back says exactly which commands produce it (R54): a command's result is the frame `f` if and only
if what the command looks like in a frame is among the readings of `f`. That a term UNHANDLED with a code below 8, which
no port value decodes to, produces no frame is this model's choice (log 16). -/
def Obligations.FrameReadsBackToItsCommands : Prop :=
  ∀ (i : Instr) (f : Frame) (s : State),
    exec i s = .next { s with regs := shown f } ↔ ∃ r ∈ frameReadings f, readingOf i = some r

/-! ## The units (40_checksum.md, 41_relay_validator.md, 42_frame_encoder.md) -/

/-- Unit U1 (R60): add modulo 256, complement, add 1 modulo 256; the five bytes then sum to 0 modulo 256, for every
input. -/
def Obligations.ChecksumComplementsTheSum : Prop :=
  (∀ b0 b1 b2 b3 : Byte,
    (chk b0 b1 b2 b3).toNat = ((255 - sum4 b0 b1 b2 b3 % 256) + 1) % 256 ∧
    (sum4 b0 b1 b2 b3 + (chk b0 b1 b2 b3).toNat) % 256 = 0) ∧
  chk 13 1 66 5 = 171

/-- The checksum is the only byte that completes the sum, and it does not depend on the order of the four bytes (R61,
R62; the spec marks both as derived from R60). -/
def Obligations.ChecksumUniqueAndSymmetric : Prop :=
  ∀ b0 b1 b2 b3 : Byte,
    (∀ c : Byte, (sum4 b0 b1 b2 b3 + c.toNat) % 256 = 0 → c = chk b0 b1 b2 b3) ∧
    (chk b0 b1 b2 b3).toNat = (256 - sum4 b0 b1 b2 b3 % 256) % 256 ∧
    (∀ c0 c1 c2 c3 : Byte, [c0, c1, c2, c3].Perm [b0, b1, b2, b3] → chk c0 c1 c2 c3 = chk b0 b1 b2 b3)

/-- Unit U2 (R70): valid with the code `0x30 + index` exactly for 1 to 8, tested on the whole integer; otherwise
invalid, with the sentinel 0 on the code wires and the diagnostic signalled. -/
def Obligations.ValidatorAcceptsOneToEight : Prop :=
  (∀ n : Int, 1 ≤ n → n ≤ 8 →
    ∃ code : Byte, validate n = .valid code ∧ (code.toNat : Int) = 0x30 + n ∧
      (validate n).rcValid = true ∧ (validate n).rcCode = code ∧ (validate n).rcDiag = false) ∧
  (∀ n : Int, n < 1 ∨ 8 < n →
    validate n = .invalid ∧ (validate n).rcValid = false ∧ (validate n).rcCode = 0x00 ∧ (validate n).rcDiag = true) ∧
  validate 3 = .valid 0x33 ∧ validate 0 = .invalid ∧ validate (-1) = .invalid ∧ validate 9 = .invalid ∧
  validate 100 = .invalid

/-- Unit U3's pack (R80): five bytes, the first 13, the three inputs copied, the last the checksum. -/
def Obligations.EncoderPacksFiveBytes : Prop :=
  (∀ a i v : Byte,
    (encodeFrame a i v).byte 0 = 13 ∧ (encodeFrame a i v).byte 1 = a ∧ (encodeFrame a i v).byte 2 = i ∧
    (encodeFrame a i v).byte 3 = v ∧ (encodeFrame a i v).byte 4 = chk 13 a i v) ∧
  encodeFrame 1 0x42 5 = ⟨0x0D, 0x01, 0x42, 0x05, 0xAB⟩ ∧
  (encodeFrame 1 0x42 5).packed = 0xAB0542010D

/-- The laws of a frame (R82; the spec marks them as derived): the five bytes sum to 0, the last is `243 - a - i - v`
modulo 256, and different inputs give different frames. -/
def Obligations.EncoderLaws : Prop :=
  ∀ a i v : Byte,
    (encodeFrame a i v).sum8 = 0 ∧
    ((encodeFrame a i v).b4.toNat : Int) = (243 - (a.toNat : Int) - (i.toNat : Int) - (v.toNat : Int)) % 256 ∧
    (∀ a' i' v' : Byte, encodeFrame a i v = encodeFrame a' i' v' → a = a' ∧ i = i' ∧ v = v') ∧
    (∀ f : Frame, f.b0 = 13 → f.sum8 = 0 → f = encodeFrame f.b1 f.b2 f.b3)

/-- Arguments are two's-complement integers, and truncating one to a byte keeps the low eight bits of its pattern, for
negative arguments as well (00_scope.md R8, R9; 42_frame_encoder.md R81). -/
def Obligations.TruncationKeepsTheLowByte : Prop :=
  (∀ (argw : Nat) (x : BitVec argw), 8 ≤ argw →
    sint x = x.toInt ∧ argInRange argw (sint x) = true ∧ BitVec.ofInt argw (sint x) = x ∧
    trunc8 (sint x) = x.extractLsb' 0 8) ∧
  (∀ n : Int, ((trunc8 n).toNat : Int) = n % 256) ∧
  trunc8 300 = 44 ∧ trunc8 256 = 0 ∧ trunc8 (-1) = 255 ∧ trunc8 99 = 99 ∧ trunc8 171 = 171

/-- The internal nets, bit level, at every argument width: the select table of the mux, the comparators and the adders
present the same response as EXEC, and the two error nets are never 1 together (R64, R74, R84, R100; the spec marks
R100 as derived). -/
def Obligations.DatapathComputesExec : Prop :=
  ∀ (argw : Nat) (c : Cmd argw), 8 ≤ argw →
    (nets c).response = some (Cmd.response c) ∧ ¬((nets c).unhandled = true ∧ (nets c).invalid = true) ∧
    (nets c).u2.rcValid = (validate (sint c.a1)).rcValid ∧ (nets c).u2.rcCode = (validate (sint c.a1)).rcCode ∧
    (nets c).u2.rcDiag = (validate (sint c.a1)).rcDiag

/-! ## The operations (43_operations.md) -/

/-- `SET a0, a1` (R91), for every argument, from every state: the frame `[13, a0, 'B', a1, checksum]` of the low bytes,
`FV` and `RV` 1, the diagnostics 0; nothing else of the state changes. -/
def Obligations.SetSendsRawValue : Prop :=
  (∀ (argw : Nat) (c : Cmd argw), c.op = 0 → decodeCmd c = .set (sint c.a0) (sint c.a1)) ∧
  (∀ (a0 a1 : Int) (s : State), exec (.set a0 a1) s = .next { s with regs := shown (frameOf a0 0x42 a1) }) ∧
  (∀ s : State,
    exec (.set 1 5) s = .next { s with regs := shown ⟨0x0D, 0x01, 0x42, 0x05, 0xAB⟩ } ∧
    exec (.set 300 256) s = .next { s with regs := shown ⟨0x0D, 0x2C, 0x42, 0x00, 0x85⟩ } ∧
    exec (.set (-1) (-1)) s = .next { s with regs := shown ⟨0x0D, 0xFF, 0x42, 0xFF, 0xB3⟩ })

/-- `SET_RELAY a0, a1` (R92): with an index from 1 to 8 the frame `[13, a0, 'S', a1, checksum]`, the value being the
index itself; with any other index InvalidIndex and no frame. -/
def Obligations.SetRelaySendsRawIndex : Prop :=
  (∀ (argw : Nat) (c : Cmd argw), c.op = 1 → decodeCmd c = .setRelay (sint c.a0) (sint c.a1)) ∧
  (∀ (a0 a1 : Int) (s : State), 1 ≤ a1 → a1 ≤ 8 →
    exec (.setRelay a0 a1) s = .next { s with regs := shown (frameOf a0 0x53 a1) } ∧
    ((frameOf a0 0x53 a1).b3.toNat : Int) = a1) ∧
  (∀ (a0 a1 : Int) (s : State), a1 < 1 ∨ 8 < a1 → exec (.setRelay a0 a1) s = .next { s with regs := invalidShown }) ∧
  (∀ s : State, exec (.setRelay 5 3) s = .next { s with regs := shown ⟨0x0D, 0x05, 0x53, 0x03, 0x98⟩ })

/-- `CLEAR_RELAY a0, a1` (R93): with an index from 1 to 8 the frame `[13, a0, 'C', 0x30 + a1, checksum]`; with any
other index InvalidIndex and no frame. -/
def Obligations.ClearRelaySendsCode : Prop :=
  (∀ (argw : Nat) (c : Cmd argw), c.op = 2 → decodeCmd c = .clearRelay (sint c.a0) (sint c.a1)) ∧
  (∀ (a0 a1 : Int) (s : State), 1 ≤ a1 → a1 ≤ 8 →
    exec (.clearRelay a0 a1) s = .next { s with regs := shown (frameOf a0 0x43 (0x30 + a1)) } ∧
    ((frameOf a0 0x43 (0x30 + a1)).b3.toNat : Int) = 0x30 + a1) ∧
  (∀ (a0 a1 : Int) (s : State), a1 < 1 ∨ 8 < a1 → exec (.clearRelay a0 a1) s = .next { s with regs := invalidShown }) ∧
  (∀ s : State, exec (.clearRelay 5 3) s = .next { s with regs := shown ⟨0x0D, 0x05, 0x43, 0x33, 0x78⟩ })

/-- `TOGGLE_RELAY a0, a1` (R94): with an index from 1 to 8 the frame `[13, a0, 'T', 0x30 + a1, checksum]`, which is
also the frame of `SET_ADDRESS a0, 0x30 + a1`; with any other index InvalidIndex and no frame. -/
def Obligations.ToggleRelaySendsCode : Prop :=
  (∀ (argw : Nat) (c : Cmd argw), c.op = 3 → decodeCmd c = .toggleRelay (sint c.a0) (sint c.a1)) ∧
  (∀ (a0 a1 : Int) (s : State), 1 ≤ a1 → a1 ≤ 8 →
    exec (.toggleRelay a0 a1) s = .next { s with regs := shown (frameOf a0 0x54 (0x30 + a1)) } ∧
    exec (.setAddress a0 (0x30 + a1)) s = .next { s with regs := shown (frameOf a0 0x54 (0x30 + a1)) } ∧
    ((frameOf a0 0x54 (0x30 + a1)).b3.toNat : Int) = 0x30 + a1) ∧
  (∀ (a0 a1 : Int) (s : State), a1 < 1 ∨ 8 < a1 → exec (.toggleRelay a0 a1) s = .next { s with regs := invalidShown }) ∧
  (∀ s : State, exec (.toggleRelay 7 2) s = .next { s with regs := shown ⟨0x0D, 0x07, 0x54, 0x32, 0x66⟩ })

/-- `EMERGENCY_STOP` (R95): one constant frame, whatever the arguments and whatever the state. -/
def Obligations.EmergencyStopIsConstant : Prop :=
  (∀ (argw : Nat) (c : Cmd argw), c.op = 4 → decodeCmd c = .emergencyStop (sint c.a0) (sint c.a1)) ∧
  (∀ (a0 a1 : Int) (s : State),
    exec (.emergencyStop a0 a1) s = .next { s with regs := shown ⟨0x0D, 0x00, 0x45, 0x00, 0xAE⟩ }) ∧
  frameOf 0 0x45 0 = ⟨0x0D, 0x00, 0x45, 0x00, 0xAE⟩

/-- `DISPLAY_ADDRESS` (R96): one constant frame, whatever the arguments and whatever the state. -/
def Obligations.DisplayAddressIsConstant : Prop :=
  (∀ (argw : Nat) (c : Cmd argw), c.op = 5 → decodeCmd c = .displayAddress (sint c.a0) (sint c.a1)) ∧
  (∀ (a0 a1 : Int) (s : State),
    exec (.displayAddress a0 a1) s = .next { s with regs := shown ⟨0x0D, 0x00, 0x44, 0x00, 0xAF⟩ }) ∧
  frameOf 0 0x44 0 = ⟨0x0D, 0x00, 0x44, 0x00, 0xAF⟩

/-- `SET_ADDRESS a0, a1` (R97): the frame `[13, a0, 'T', a1, checksum]` of the low bytes, for every argument. -/
def Obligations.SetAddressSendsNewAddress : Prop :=
  (∀ (argw : Nat) (c : Cmd argw), c.op = 6 → decodeCmd c = .setAddress (sint c.a0) (sint c.a1)) ∧
  (∀ (a0 a1 : Int) (s : State), exec (.setAddress a0 a1) s = .next { s with regs := shown (frameOf a0 0x54 a1) }) ∧
  (∀ s : State,
    exec (.setAddress 1 2) s = .next { s with regs := shown ⟨0x0D, 0x01, 0x54, 0x02, 0x9C⟩ } ∧
    exec (.setAddress 2 300) s = .next { s with regs := shown ⟨0x0D, 0x02, 0x54, 0x2C, 0x71⟩ })

/-- `RESET_ADDRESS a0` (R98): the frame `[13, 0, 'A', a0, checksum]`, whatever the second argument. -/
def Obligations.ResetAddressSendsTarget : Prop :=
  (∀ (argw : Nat) (c : Cmd argw), c.op = 7 → decodeCmd c = .resetAddress (sint c.a0) (sint c.a1)) ∧
  (∀ (a0 a1 : Int) (s : State), exec (.resetAddress a0 a1) s = .next { s with regs := shown (frameOf 0 0x41 a0) }) ∧
  (∀ (a1 : Int) (s : State),
    exec (.resetAddress 5 a1) s = .next { s with regs := shown ⟨0x0D, 0x00, 0x41, 0x05, 0xAD⟩ } ∧
    exec (.resetAddress 256 a1) s = .next { s with regs := shown ⟨0x0D, 0x00, 0x41, 0x00, 0xB2⟩ } ∧
    exec (.resetAddress (-1) a1) s = .next { s with regs := shown ⟨0x0D, 0x00, 0x41, 0xFF, 0xB3⟩ })

/-- `UNHANDLED n` (R99): the Unhandled response for each of the eight codes 8 to 15 and every argument, no frame. -/
def Obligations.UnhandledGivesNoFrame : Prop :=
  (∀ (argw : Nat) (c : Cmd argw), c.op.getLsbD 3 = true → decodeCmd c = .unhandled c.op (sint c.a0) (sint c.a1)) ∧
  (∀ (n : BitVec 4) (a0 a1 : Int) (s : State), n.getLsbD 3 = true →
    exec (.unhandled n a0 a1) s = .next { s with regs := unhandledShown }) ∧
  (∀ s : State, ∃ t, exec (.unhandled 9 0 0) s = .next t ∧ (outputs t.regs).rspKind = 3)

/-- Which parts of the arguments matter (R101 items 1 to 3, which the spec marks as derived): ignored arguments do not,
only the low byte of an unvalidated one does, a relay operation gives a frame exactly for an index from 1 to 8, and its
index is not read modulo 256. That the unhandled codes 8 to 15 behave alike is R99's; that the terms UNHANDLED with a
code below 8, which no port value decodes to, do so too is this model's choice (log 16). -/
def Obligations.ArgumentsThatMatter : Prop :=
  ∀ (a0 a1 b0 b1 j k : Int) (n m : BitVec 4) (s : State),
    exec (.emergencyStop a0 a1) s = exec (.emergencyStop b0 b1) s ∧
    exec (.displayAddress a0 a1) s = exec (.displayAddress b0 b1) s ∧
    exec (.unhandled n a0 a1) s = exec (.unhandled m b0 b1) s ∧
    exec (.resetAddress (a0 + 256 * j) a1) s = exec (.resetAddress a0 b1) s ∧
    exec (.set (a0 + 256 * j) (a1 + 256 * k)) s = exec (.set a0 a1) s ∧
    exec (.setAddress (a0 + 256 * j) (a1 + 256 * k)) s = exec (.setAddress a0 a1) s ∧
    (∀ op ∈ [Instr.setRelay, Instr.clearRelay, Instr.toggleRelay],
      exec (op (a0 + 256 * j) a1) s = exec (op a0 a1) s ∧
      (∃ t, exec (op a0 a1) s = .next t ∧ (t.regs.fv = true ↔ isIndex a1)) ∧
      (isIndex a1 → k ≠ 0 → exec (op a0 (a1 + 256 * k)) s ≠ exec (op a0 a1) s))

/-- Every command completes, from every state, and changes nothing but the register set, which it overwrites whole:
what a command leaves does not depend on what was there (R90; 10_state.md R10, R22; 20_memory.md R33), and satisfies the
register invariants (10_state.md R21 (a), (c), (d), (e), which the spec marks as derived). That a term UNHANDLED with a
code below 8, which no port value decodes to, completes as well is this model's choice (log 16). -/
def Obligations.EveryCommandCompletes : Prop :=
  ∀ (i : Instr) (s : State), ∃ r : Registers,
    exec i s = .next { s with regs := r } ∧ r.rv = true ∧ RegistersOk r ∧
    (∀ s' t' : State, exec i s' = .next t' → t' = { s' with regs := r })

/-! ## Error conditions (60_exceptions.md) -/

/-- InvalidIndex (R120): a command raises it exactly when its code is 1, 2 or 3 and its second argument is not a relay
index, at every argument width; its whole effect is on the registers. -/
def Obligations.InvalidIndexExactly : Prop :=
  ∀ (argw : Nat) (c : Cmd argw) (s : State), ∃ t,
    exec (decodeCmd c) s = .next t ∧
    (t.regs.einv = true ↔ (c.op = 1 ∨ c.op = 2 ∨ c.op = 3) ∧ (sint c.a1 < 1 ∨ 8 < sint c.a1)) ∧
    (t.regs.einv = true → t = { s with regs := invalidShown })

/-- Unhandled (R121): a command raises it exactly when its code is 8 to 15, whatever its arguments, at every argument
width; its whole effect is on the registers. -/
def Obligations.UnhandledExactly : Prop :=
  ∀ (argw : Nat) (c : Cmd argw) (s : State), ∃ t,
    exec (decodeCmd c) s = .next t ∧ (t.regs.eunh = true ↔ 8 ≤ c.op.toNat) ∧
    (t.regs.eunh = true → t = { s with regs := unhandledShown })

/-- The response kind codes (R122): 0 after a reset step, and after a command 1, 2 or 3 as its code and its second
argument say; an idle edge keeps the code. -/
def Obligations.ResponseKindCodes : Prop :=
  (∀ s : State, (nextSample s).rst = true → ∃ t, step s = .next t ∧ (outputs t.regs).rspKind = 0) ∧
  (∀ (argw : Nat) (c : Cmd argw) (s : State), ∃ t,
    exec (decodeCmd c) s = .next t ∧
    (outputs t.regs).rspKind =
      (if 8 ≤ c.op.toNat then 3
       else if (c.op = 1 ∨ c.op = 2 ∨ c.op = 3) ∧ (sint c.a1 < 1 ∨ 8 < sint c.a1) then 2
       else 1)) ∧
  (∀ s : State, s.resetSeen = true → (nextSample s).rst = false → (nextSample s).cmdValid = false →
    ∃ t, step s = .next t ∧ (outputs t.regs).rspKind = (outputs s.regs).rspKind)

/-- Priority (R124, which the spec marks as derived): `rst` beats a command, and a command with a code 8 to 15 is
Unhandled and never InvalidIndex, whatever its second argument. -/
def Obligations.ResetBeatsUnhandledBeatsInvalid : Prop :=
  (∀ s : State, (nextSample s).rst = true →
    step s = .next { s with regs := resetShown, resetSeen := true, inputs := s.inputs.tail }) ∧
  (∀ s : State, s.resetSeen = true → (nextSample s).rst = false → (nextSample s).cmdValid = true →
    8 ≤ (nextSample s).cmd.op.toNat →
    ∃ t, step s = .next t ∧ t.regs.eunh = true ∧ t.regs.einv = false)

/-- No fault is fatal and no state is stuck (R128, which the spec marks as derived): after the first reset step every
edge performs a step; the only refusal is an edge without reset before it (10_state.md R24; log 5). -/
def Obligations.NoStuckState : Prop :=
  ∀ s : State,
    (s.resetSeen = true → Goes s) ∧ ((nextSample s).rst = true → Goes s) ∧
    (s.resetSeen = false → (nextSample s).rst = false → step s = .refused .beforeReset) ∧
    (∀ t, step s = .next t → Goes t)

/-! ## The step, reset, outputs (10_state.md, 70_reset_and_hazards.md) -/

/-- A step runs the command that the ports carry: it is `exec` of the decoded command on the state whose sample is used
up, and the command is well formed at the block's width; a well-formed command that is presented is the one that runs.
The list of samples is this model's form of the ports (log 2). -/
def Obligations.StepRunsTheDecodedCommand : Prop :=
  (∀ s : State, s.resetSeen = true → (nextSample s).rst = false → (nextSample s).cmdValid = true →
    step s = exec (decodeCmd (nextSample s).cmd) { s with inputs := s.inputs.tail } ∧
    (decodeCmd (nextSample s).cmd).wellFormed s.config.argw = true) ∧
  (∀ (s : State) (i : Instr) (rest : List (PortSample s.config.argw)), s.resetSeen = true →
    i.wellFormed s.config.argw = true → s.inputs = ⟨false, true, encodeCmd s.config.argw i⟩ :: rest →
    step s = exec i { s with inputs := rest })

/-- The three steps of a rising edge (R19), chosen by `rst` and `cmd_valid` with priority to `rst`: the reset step, the
command step with the response EXEC gives, the idle step, which changes `RV` alone. -/
def Obligations.EdgePerformsOneStep : Prop :=
  ∀ s : State,
    ((nextSample s).rst = true → ∃ t, step s = .next t ∧ t.regs = resetShown) ∧
    (s.resetSeen = true → (nextSample s).rst = false → (nextSample s).cmdValid = true →
      ∃ t, step s = .next t ∧
        (∀ f, execResponse (nextSample s).cmd.op (sint (nextSample s).cmd.a0) (sint (nextSample s).cmd.a1) = .frame f →
          t.regs = shown f) ∧
        (execResponse (nextSample s).cmd.op (sint (nextSample s).cmd.a0) (sint (nextSample s).cmd.a1)
            = .error .invalidIndex → t.regs = invalidShown) ∧
        (execResponse (nextSample s).cmd.op (sint (nextSample s).cmd.a0) (sint (nextSample s).cmd.a1)
            = .error .unhandled → t.regs = unhandledShown)) ∧
    (s.resetSeen = true → (nextSample s).rst = false → (nextSample s).cmdValid = false →
      ∃ t, step s = .next t ∧ t.regs.rv = false ∧ t.regs.frame = s.regs.frame ∧ t.regs.fv = s.regs.fv ∧
        t.regs.einv = s.regs.einv ∧ t.regs.eunh = s.regs.eunh)

/-- The reset values (R24): after a reset step, whatever the registers held, and in the reset state; before the first
reset step the outputs have no value and reading them is refused. -/
def Obligations.ResetValues : Prop :=
  State.reset.regs = resetShown ∧ (outputs State.reset.regs).rspKind = 0 ∧
  (∀ c : Config, (State.resetWith c).regs = resetShown ∧ (State.powerUp c).resetSeen = false) ∧
  (∀ s : State, (nextSample s).rst = true → ∃ t, step s = .next t ∧ t.regs = resetShown ∧ t.resetSeen = true) ∧
  (∀ s : State, s.resetSeen = false → observe s = .error .beforeReset) ∧
  (∀ s : State, s.resetSeen = true → observe s = .ok (outputs s.regs))

/-- Reset (R140): its result does not depend on the state before it, a command presented at the edge is lost without a
response, the next edge performs a step without any delay, and one more reset edge changes no register. -/
def Obligations.ResetIsIdempotentAndLosesTheCommand : Prop :=
  ∀ (s s' : State), (nextSample s).rst = true → (nextSample s').rst = true →
    ∃ t t', step s = .next t ∧ step s' = .next t' ∧ t.regs = t'.regs ∧ t.regs = resetShown ∧ t.regs.rv = false ∧
      t.resetSeen = true ∧
      Goes t ∧ ((nextSample t).rst = true → ∃ u, step t = .next u ∧ u.regs = t.regs)

/-- The outputs (R20): the byte ports, the bus with byte `i` at bits `8i+7..8i`, the flags, and the kind code, whose
three tests exclude each other where at most one flag is 1. -/
def Obligations.OutputsOfTheRegisters : Prop :=
  ∀ r : Registers,
    (outputs r).frameB0 = r.frame.byte 0 ∧ (outputs r).frameB1 = r.frame.byte 1 ∧
    (outputs r).frameB2 = r.frame.byte 2 ∧ (outputs r).frameB3 = r.frame.byte 3 ∧
    (outputs r).frameB4 = r.frame.byte 4 ∧
    (∀ i : Fin 5, (outputs r).frameO.extractLsb' (8 * i.val) 8 = r.frame.byte i) ∧
    (outputs r).frameValid = r.fv ∧ (outputs r).diagInvalid = r.einv ∧ (outputs r).diagUnhandled = r.eunh ∧
    (outputs r).rspValid = r.rv ∧
    (outputs r).rspKind = (if r.fv then 1 else if r.einv then 2 else if r.eunh then 3 else 0) ∧
    (flagCount r ≤ 1 →
      ((outputs r).rspKind = 1 ↔ r.fv = true) ∧ ((outputs r).rspKind = 2 ↔ r.einv = true) ∧
      ((outputs r).rspKind = 3 ↔ r.eunh = true) ∧ ((outputs r).rspKind = 0 ↔ flagCount r = 0))

/-- The strobe (R18): `RV` is 1 after an edge exactly when a command was accepted at it, and 0 after every other edge. -/
def Obligations.StrobeMarksAcceptedCommands : Prop :=
  ∀ s t : State, step s = .next t →
    (t.regs.rv = true ↔ (nextSample s).rst = false ∧ (nextSample s).cmdValid = true)

/-- The invariants of R21 (a), (c), (d), (e), which the spec marks as derived, hold after every step from a state in
which they hold. -/
def Obligations.RegisterInvariantKept : Prop :=
  ∀ s t : State, StateOk s → step s = .next t → StateOk t

/-- The invariants of R21 hold after reset at every width, and no claim is made of the registers at power-up. -/
def Obligations.RegisterInvariantAtReset : Prop :=
  StateOk State.reset ∧ RegistersOk State.reset.regs ∧
  (∀ c : Config, StateOk (State.resetWith c) ∧ RegistersOk (State.resetWith c).regs ∧
    (State.powerUp c).resetSeen = false)

/-- While `FV = 1` the frame registers hold a frame that reads back to some command (30_encoding.md R50, R54), after
every step from a state in which they do. -/
def Obligations.ShownFrameStaysProducible : Prop :=
  ∀ s t : State, Producible s → step s = .next t → Producible t

/-- No frame is shown after reset, so the frames shown are producible there. -/
def Obligations.ShownFrameProducibleAtReset : Prop :=
  Producible State.reset ∧ State.reset.regs.fv = false

/-- Frames the block never produces (30_encoding.md R50, which the spec marks as derived): of a producible frame, byte 0
is 13, byte 2 one of the seven instruction bytes, byte 4 the checksum; the relay code of CLEAR_RELAY is never 0, and
the frames of EMERGENCY_STOP and DISPLAY_ADDRESS have address and value 0. -/
def Obligations.FramesNeverProduced : Prop :=
  ∀ f : Frame, frameReadings f ≠ [] →
    f.b0 = 13 ∧ f.b2 ∈ [0x42#8, 0x53#8, 0x43#8, 0x54#8, 0x45#8, 0x44#8, 0x41#8] ∧
    f.b4 = chk 13 f.b1 f.b2 f.b3 ∧
    (f.b2 = 0x43#8 → 0x31 ≤ f.b3.toNat ∧ f.b3.toNat ≤ 0x38) ∧
    (f.b2 = 0x53#8 → 1 ≤ f.b3.toNat ∧ f.b3.toNat ≤ 8) ∧
    (f.b2 = 0x45#8 ∨ f.b2 = 0x44#8 → f.b1 = 0 ∧ f.b3 = 0) ∧
    (f.b2 = 0x41#8 → f.b1 = 0)

/-- R21 (b), which the spec marks as derived, over every history with a reset in it: the three flags are all 0 exactly
when no command has been accepted since the last reset edge. -/
def Obligations.NoFlagMeansNoCommandSinceReset : Prop :=
  ∀ (argw : Nat) (ps : List (PortSample argw)) (r : Registers), (∃ p ∈ ps, p.rst = true) →
    (flagCount (edges ps r) = 0 ↔ acceptedSinceReset ps = false)

/-- The machine that the host runs is the spec's edge function repeated: running it over a list of port samples, from a
state that has been reset or with a reset edge first, ends with the registers that the edges give
(10_state.md R19, R24). The list of samples is this model's form of the ports (log 2). -/
def Obligations.RunIsRepeatedEdges : Prop :=
  ∀ s : State, (s.resetSeen = true ∨ (nextSample s).rst = true) →
    Host.Core.run Sys2Proof.core s.inputs.length s =
      .next { s with regs := edges s.inputs s.regs, resetSeen := true, inputs := [] }

/-- The response to a command depends on the command alone (10_state.md R10; 60_exceptions.md R127): two machines with
different pasts, and of whatever widths, that are given the same command show the same registers after it, and so do
not keep an old flag. -/
def Obligations.ResponseIgnoresHistory : Prop :=
  ∀ s s' : State, s.resetSeen = true → s'.resetSeen = true → sameSample (nextSample s) (nextSample s') →
    (nextSample s).rst = false → (nextSample s).cmdValid = true →
    ∃ t t', step s = .next t ∧ step s' = .next t' ∧ t.regs = t'.regs ∧ outputs t.regs = outputs t'.regs

/-! ## Programs and the host's duties (30_encoding.md R53; 70_reset_and_hazards.md) -/

/-- Counting responses (10_state.md R18; 70_reset_and_hazards.md R150): whatever is driven on the ports and whatever the
registers held, sampling the outputs once in each cycle with `rsp_valid = 1` counts the frames, invalid-index
diagnostics and unhandled diagnostics of exactly the accepted commands. -/
def Obligations.TallyCountsEveryResponse : Prop :=
  ∀ (argw : Nat) (ps : List (PortSample argw)) (r : Registers),
    tallyOutputs (outputTrace ps r) = tallyResponses (acceptedResponses ps)

/-- The result of a sequence of commands (30_encoding.md R53, which the spec marks as derived): after one reset step and
with any number of idle edges between commands, the responses shown are those of the commands taken separately, in
order, and the registers at the end are those of the last one. -/
def Obligations.ResponsesAreTakenSeparately : Prop :=
  ∀ (argw : Nat) (cs : List (Nat × Cmd argw)) (r : Registers),
    (outputTrace (programSamples cs) r).filter Outputs.rspValid = (programResponses cs).map Response.outputs ∧
    edges (programSamples cs) r = ((programResponses cs).getLast?.map Response.registers).getD resetShown

/-- What the host may transmit (70_reset_and_hazards.md R147; 10_state.md R15): the five bytes, byte 0 first, exactly
while `FV = 1`; they begin with 13 and sum to 0 modulo 256 in every state that keeps the invariant. -/
def Obligations.FrameValidLicencesTransmission : Prop :=
  ∀ s : State, s.resetSeen = true →
    (s.regs.fv = true → handOver s =
      .ok [s.regs.frame.byte 0, s.regs.frame.byte 1, s.regs.frame.byte 2, s.regs.frame.byte 3, s.regs.frame.byte 4]) ∧
    (s.regs.fv = false → handOver s = .error .transmitWithoutFrame) ∧
    (StateOk s → ∀ bs, handOver s = .ok bs → bs.length = 5 ∧ bs.head? = some 13 ∧ bs.foldl add8 0 = 0)

/-- The overrun hazard (70_reset_and_hazards.md R148): with the host in the model a command accepted while the consumer
is busy is refused, while the block alone just replaces the response; a consumer that has released the frame is served
normally. How a consumer says it has finished is this model's choice (log 11). -/
def Obligations.OverrunIsAHostError : Prop :=
  ∀ h : HostSystem, h.cfb.resetSeen = true → (nextSample h.cfb).rst = false → (nextSample h.cfb).cmdValid = true →
    (h.busy = true → h.edge = .error .overrun) ∧ Goes h.cfb ∧ (∃ h', h.release.edge = .ok h') ∧
    (h.busy = false → ∃ h', h.edge = .ok h')

/-- Serving responses (70_reset_and_hazards.md R147, R150; that a frame is handed over in the cycle right after the edge is
this model's choice, log 11, for R147 names no cycle): at an edge that accepts a command, the consumer hands over
one frame and emits nothing, or transmits nothing and emits exactly one diagnostic of the right kind; at any other edge
nothing is handed over or emitted. -/
def Obligations.OneFrameOrOneDiagnostic : Prop :=
  ∀ h h' : HostSystem, h.edge = .ok h' →
    (∃ t, step h.cfb = .next t ∧ h'.cfb = t) ∧
    ((nextSample h.cfb).accepts = true →
      (∃ f, Cmd.response (nextSample h.cfb).cmd = .frame f ∧ h'.handed = h.handed ++ [[f.b0, f.b1, f.b2, f.b3, f.b4]] ∧
        h'.invalidDiagnostics = h.invalidDiagnostics ∧ h'.unhandledDiagnostics = h.unhandledDiagnostics ∧
        h'.busy = true) ∨
      (Cmd.response (nextSample h.cfb).cmd = .error .invalidIndex ∧ h'.handed = h.handed ∧
        h'.invalidDiagnostics = h.invalidDiagnostics + 1 ∧ h'.unhandledDiagnostics = h.unhandledDiagnostics ∧
        h'.busy = h.busy) ∨
      (Cmd.response (nextSample h.cfb).cmd = .error .unhandled ∧ h'.handed = h.handed ∧
        h'.invalidDiagnostics = h.invalidDiagnostics ∧ h'.unhandledDiagnostics = h.unhandledDiagnostics + 1 ∧
        h'.busy = h.busy)) ∧
    ((nextSample h.cfb).accepts = false → h' = { h with cfb := h'.cfb })

/-! ## The history flag as an invariant of a step, terms and words of this model, the width -/

/-- R21 (b), which the spec marks as derived, as what one step keeps: if the three flags were all 0 exactly when no
command had been accepted since the last reset edge (`seen`), then so it is after the step, of the machine and of the
spec's edge function at every width. -/
def Obligations.NoFlagInvariantKept : Prop :=
  (∀ (s t : State) (seen : Bool), (s.resetSeen = true → (flagCount s.regs = 0 ↔ seen = false)) → step s = .next t →
    (flagCount t.regs = 0 ↔ (!(nextSample s).rst && ((nextSample s).cmdValid || seen)) = false)) ∧
  (∀ (argw : Nat) (p : PortSample argw) (r : Registers) (seen : Bool), (flagCount r = 0 ↔ seen = false) →
    (flagCount (edge p r) = 0 ↔ (!p.rst && (p.cmdValid || seen)) = false))

/-- A term UNHANDLED has the Unhandled response whatever its code, also a code below 8, which no port value decodes to:
this model's choice (log 16), for the spec speaks of the codes 8 to 15 only. -/
def Obligations.UnhandledTermOfAnyCode : Prop :=
  (∀ (n : BitVec 4) (a0 a1 : Int) (s : State),
    exec (.unhandled n a0 a1) s = .next { s with regs := unhandledShown }) ∧
  (∀ (argw : Nat) (c : Cmd argw) (n : BitVec 4) (a0 a1 : Int), n.getLsbD 3 = false → decodeCmd c ≠ .unhandled n a0 a1)

/-- A word of the opcode table that `withFetchWord` places is the command that the very next step runs, on a block of
any width that can carry it, and the default width carries every word that the decoder reads. This model's choices:
that the reset before a first command counts as done, also on a state that has not been reset (log 4), which bytes
the table's word is (log 6), and that the table is read at the default width (log 1). -/
def Obligations.PlacedWordRuns : Prop :=
  ∀ (nbits w : Nat) (i : Instr), decodeTableWord nbits w = some i →
    i.wellFormed 32 = true ∧
    (∀ s : State, i.wellFormed s.config.argw = true →
      step (s.withFetchWord nbits w) = exec i { s with resetSeen := true, inputs := s.inputs.tail })

/-- `ARGW` (00_scope.md R5, R6): a machine takes it as its configuration, at least 8 and 32 by default, and no step
changes it. That the configuration stands in `State` is this model's form (log 1). -/
def Obligations.WidthIsConfiguration : Prop :=
  (∀ n : Nat, 8 ≤ n ↔ ∃ c : Config, c.argw = n) ∧
  (∀ c : Config, (State.resetWith c).config = c) ∧ State.reset.config.argw = 32 ∧
  (∀ s t : State, step s = .next t → t.config = s.config ∧ 8 ≤ t.config.argw)

/-- No rule depends on the value of `ARGW` (00_scope.md R6, which the spec marks as derived): two blocks, of any two
widths, with the same registers and given samples that carry the same, do the same: both are refused, or both step to
the same registers. -/
def Obligations.NoRuleDependsOnTheWidth : Prop :=
  ∀ s s' : State, s.regs = s'.regs → s.resetSeen = s'.resetSeen → sameSample (nextSample s) (nextSample s') →
    (∃ r, step s = .refused r ∧ step s' = .refused r) ∨
    (∃ t t', step s = .next t ∧ step s' = .next t' ∧ t.regs = t'.regs ∧ t.resetSeen = t'.resetSeen)
end

