-- ==== Sys2Proof/Laws/State.lean ====
section
/-! SUPPORT. One lemma per field per update of the state, each true by unfolding, so that no later proof unfolds a
record update; and what each shared state operation does, said once. -/

namespace Sys2Proof.Machine

@[simp] theorem loadFrame_regs (f : Frame) (s : State) : (loadFrame f s).regs = (Response.frame f).registers := rfl
@[simp] theorem loadFrame_config (f : Frame) (s : State) : (loadFrame f s).config = s.config := rfl
@[simp] theorem loadFrame_resetSeen (f : Frame) (s : State) : (loadFrame f s).resetSeen = s.resetSeen := rfl
@[simp] theorem loadFrame_inputs (f : Frame) (s : State) : (loadFrame f s).inputs = s.inputs := rfl

@[simp] theorem raise_regs (c : Condition) (s : State) : (raise c s).regs = (Response.error c).registers := rfl
@[simp] theorem raise_config (c : Condition) (s : State) : (raise c s).config = s.config := rfl
@[simp] theorem raise_resetSeen (c : Condition) (s : State) : (raise c s).resetSeen = s.resetSeen := rfl
@[simp] theorem raise_inputs (c : Condition) (s : State) : (raise c s).inputs = s.inputs := rfl

@[simp] theorem resetStep_regs (s : State) : (resetStep s).regs = Registers.reset := rfl
@[simp] theorem resetStep_config (s : State) : (resetStep s).config = s.config := rfl
@[simp] theorem resetStep_resetSeen (s : State) : (resetStep s).resetSeen = true := rfl
@[simp] theorem resetStep_inputs (s : State) : (resetStep s).inputs = s.inputs := rfl

@[simp] theorem idleStep_frame (s : State) : (idleStep s).regs.frame = s.regs.frame := rfl
@[simp] theorem idleStep_fv (s : State) : (idleStep s).regs.fv = s.regs.fv := rfl
@[simp] theorem idleStep_einv (s : State) : (idleStep s).regs.einv = s.regs.einv := rfl
@[simp] theorem idleStep_eunh (s : State) : (idleStep s).regs.eunh = s.regs.eunh := rfl
@[simp] theorem idleStep_rv (s : State) : (idleStep s).regs.rv = false := rfl
@[simp] theorem idleStep_config (s : State) : (idleStep s).config = s.config := rfl
@[simp] theorem idleStep_resetSeen (s : State) : (idleStep s).resetSeen = s.resetSeen := rfl
@[simp] theorem idleStep_inputs (s : State) : (idleStep s).inputs = s.inputs := rfl

@[simp] theorem tick_regs (s : State) : (tick s).regs = s.regs := rfl
@[simp] theorem tick_config (s : State) : (tick s).config = s.config := rfl
@[simp] theorem tick_resetSeen (s : State) : (tick s).resetSeen = s.resetSeen := rfl
@[simp] theorem tick_inputs (s : State) : (tick s).inputs = s.inputs.tail := rfl

@[simp] theorem present_config (s : State) (p : PortSample s.config.argw) : (present s p).config = s.config := rfl
@[simp] theorem present_regs (s : State) (p : PortSample s.config.argw) : (present s p).regs = s.regs := rfl
@[simp] theorem present_resetSeen (s : State) (p : PortSample s.config.argw) : (present s p).resetSeen = s.resetSeen := rfl
@[simp] theorem present_inputs (s : State) (p : PortSample s.config.argw) :
    (present s p).inputs = p :: s.inputs.tail := rfl
@[simp] theorem nextSample_present (s : State) (p : PortSample s.config.argw) : nextSample (present s p) = p := rfl
@[simp] theorem tick_present (s : State) (p : PortSample s.config.argw) : tick (present s p) = tick s := rfl

@[simp] theorem withFetchWord_config (s : State) (nbits w : Nat) : (s.withFetchWord nbits w).config = s.config := rfl
@[simp] theorem withFetchWord_regs (s : State) (nbits w : Nat) : (s.withFetchWord nbits w).regs = s.regs := rfl
@[simp] theorem withFetchWord_resetSeen (s : State) (nbits w : Nat) : (s.withFetchWord nbits w).resetSeen = true := rfl
@[simp] theorem withFetchWord_inputs (s : State) (nbits w : Nat) :
    (s.withFetchWord nbits w).inputs = fetchSample s.config.argw nbits w :: s.inputs.tail := rfl

@[simp] theorem registers_frame (r : Response) : r.registers.frame = r.frameBytes := rfl
@[simp] theorem registers_fv (r : Response) : r.registers.fv = r.fv := rfl
@[simp] theorem registers_einv (r : Response) : r.registers.einv = r.einv := rfl
@[simp] theorem registers_eunh (r : Response) : r.registers.eunh = r.eunh := rfl
@[simp] theorem registers_rv (r : Response) : r.registers.rv = true := rfl

/-- Everything that responding can do: the register set is overwritten whole by that of the response (10_state.md
R19). -/
theorem respond_eq (r : Response) (s : State) : respond r s = { s with regs := r.registers } := by
  cases r <;> rfl

@[simp] theorem respond_regs (r : Response) (s : State) : (respond r s).regs = r.registers := by
  rw [respond_eq]

@[simp] theorem respond_config (r : Response) (s : State) : (respond r s).config = s.config := by
  rw [respond_eq]

@[simp] theorem respond_resetSeen (r : Response) (s : State) : (respond r s).resetSeen = s.resetSeen := by
  rw [respond_eq]

theorem respond_inputs (r : Response) (s : State) : HEq (respond r s).inputs s.inputs := by
  rw [respond_eq]

end Sys2Proof.Machine
end

