-- ==== Sys2Proof/Laws/Exec.lean ====
section
/-! SUPPORT. What a command and a step can do, said once: `exec` writes the registers of one response, and `step` does
one of three things or refuses. The provers cite these instead of unfolding the machine. -/

namespace Sys2Proof.Machine

/-- The response that a command's meaning computes. -/
def responseOf : Instr → Response
  | .set a0 a1 => opSet a0 a1
  | .setRelay a0 a1 => opSetRelay a0 a1
  | .clearRelay a0 a1 => opClearRelay a0 a1
  | .toggleRelay a0 a1 => opToggleRelay a0 a1
  | .emergencyStop _ _ => opEmergencyStop
  | .displayAddress _ _ => opDisplayAddress
  | .setAddress a0 a1 => opSetAddress a0 a1
  | .resetAddress a0 _ => opResetAddress a0
  | .unhandled _ _ _ => opUnhandled

/-- Everything that a command can do: the register set of its response overwrites the one before. -/
theorem exec_eq (i : Instr) (s : State) : exec i s = .next { s with regs := (responseOf i).registers } := by
  cases i <;> exact congrArg Host.Outcome.next (respond_eq _ s)

/-- The inversion of `exec`: a next state is the state before with the registers of the response. -/
theorem exec_cases {i : Instr} {s t : State} (h : exec i s = .next t) :
    t = { s with regs := (responseOf i).registers } := by
  rw [exec_eq] at h
  exact (Host.Outcome.next.inj h).symm

/-- A code with its top bit 1 decodes to the unhandled command (30_encoding.md R41). -/
theorem decodeOp_unhandled {op : BitVec 4} (h : op.getLsbD 3 = true) (a0 a1 : Int) :
    decodeOp op a0 a1 = .unhandled op a0 a1 := by
  unfold decodeOp
  split <;> first | rfl | exact absurd h (by decide)

/-- The nine cases of an operation code (30_encoding.md R41). -/
theorem opcode_cases (op : BitVec 4) :
    op = 0 ∨ op = 1 ∨ op = 2 ∨ op = 3 ∨ op = 4 ∨ op = 5 ∨ op = 6 ∨ op = 7 ∨ op.getLsbD 3 = true := by
  revert op
  decide

/-- The response that EXEC gives a code is that of the command the code decodes to. -/
theorem execResponse_eq (op : BitVec 4) (a0 a1 : Int) : execResponse op a0 a1 = responseOf (decodeOp op a0 a1) := by
  rcases opcode_cases op with h | h | h | h | h | h | h | h | h
  case inr.inr.inr.inr.inr.inr.inr.inr =>
    obtain ⟨h0, h1, h2, h3, h4, h5, h6, h7⟩ : op ≠ 0 ∧ op ≠ 1 ∧ op ≠ 2 ∧ op ≠ 3 ∧ op ≠ 4 ∧ op ≠ 5 ∧ op ≠ 6 ∧ op ≠ 7 := by
      revert op
      decide
    rw [decodeOp_unhandled h]
    simp only [execResponse, if_neg h0, if_neg h1, if_neg h2, if_neg h3, if_neg h4, if_neg h5, if_neg h6, if_neg h7,
      responseOf]
  all_goals subst h; rfl

/-- An operation on a valid index answers with the frame it builds from the relay code. -/
theorem withRelayCode_valid {n : Int} (h1 : 1 ≤ n) (h8 : n ≤ 8) (build : Byte → Frame) :
    withRelayCode n build = .frame (build (relayCode n)) := by
  have h : validate n = .valid (relayCode n) := if_pos ⟨h1, h8⟩
  simp [withRelayCode, h]

/-- An operation on any other index answers InvalidIndex. -/
theorem withRelayCode_invalid {n : Int} (hn : n < 1 ∨ 8 < n) (build : Byte → Frame) :
    withRelayCode n build = .error .invalidIndex := by
  have h : validate n = .invalid := if_neg (by omega)
  simp [withRelayCode, h]

/-! ## The step -/

/-- A reset edge. -/
theorem step_reset {s : State} (h : (nextSample s).rst = true) : step s = .next (resetStep (tick s)) := by
  simp [step, edgeKind, h]

/-- An edge without reset before the first reset step. -/
theorem step_beforeReset {s : State} (h : (nextSample s).rst = false) (hs : s.resetSeen = false) :
    step s = .refused .beforeReset := by
  simp [step, edgeKind, h, hs]

/-- A command edge. -/
theorem step_command {s : State} (hs : s.resetSeen = true) (h : (nextSample s).rst = false)
    (hv : (nextSample s).cmdValid = true) : step s = exec (decodeCmd (nextSample s).cmd) (tick s) := by
  simp [step, edgeKind, h, hs, hv]

/-- An idle edge. -/
theorem step_idle {s : State} (hs : s.resetSeen = true) (h : (nextSample s).rst = false)
    (hv : (nextSample s).cmdValid = false) : step s = .next (idleStep (tick s)) := by
  simp [step, edgeKind, h, hs, hv]

/-- The inversion of `step`: everything that a step answering `next t` can have done. -/
theorem step_cases {s t : State} (h : step s = .next t) :
    ((nextSample s).rst = true ∧ t = resetStep (tick s)) ∨
    (s.resetSeen = true ∧ (nextSample s).rst = false ∧ (nextSample s).cmdValid = true ∧
      t = { tick s with regs := (responseOf (decodeCmd (nextSample s).cmd)).registers }) ∨
    (s.resetSeen = true ∧ (nextSample s).rst = false ∧ (nextSample s).cmdValid = false ∧ t = idleStep (tick s)) := by
  cases hr : (nextSample s).rst with
  | true =>
    rw [step_reset hr] at h
    exact .inl ⟨rfl, (Host.Outcome.next.inj h).symm⟩
  | false =>
    cases hs : s.resetSeen with
    | false => rw [step_beforeReset hr hs] at h; cases h
    | true =>
      cases hv : (nextSample s).cmdValid with
      | true =>
        rw [step_command hs hr hv] at h
        exact .inr (.inl ⟨rfl, rfl, rfl, exec_cases h⟩)
      | false =>
        rw [step_idle hs hr hv] at h
        exact .inr (.inr ⟨rfl, rfl, rfl, (Host.Outcome.next.inj h).symm⟩)

end Sys2Proof.Machine
end

