-- ==== Sys2Proof/Laws/PerInstr.lean ====
section
/-! SUPPORT. One family of statements made per constructor of `Instr`: where the operands of a command stand in the
ports that present it. -/

namespace Sys2Proof.Laws

/-- The ports that present a command carry its operation code, and the code selects the command back from the two
integers they carry, provided an unhandled code is one of 8 to 15 (30_encoding.md R41, R42). -/
def OpcodeSelects.Statement (i : Instr) : Prop :=
  ∀ argw : Nat, i.wellFormed argw = true →
    (encodeCmd argw i).op = i.opcode ∧ decodeOp i.opcode i.arg0 i.arg1 = i

theorem OpcodeSelects.set (a0 a1 : Int) : OpcodeSelects.Statement (.set a0 a1) :=
  fun _ _ => ⟨rfl, rfl⟩

theorem OpcodeSelects.setRelay (a0 a1 : Int) : OpcodeSelects.Statement (.setRelay a0 a1) :=
  fun _ _ => ⟨rfl, rfl⟩

theorem OpcodeSelects.clearRelay (a0 a1 : Int) : OpcodeSelects.Statement (.clearRelay a0 a1) :=
  fun _ _ => ⟨rfl, rfl⟩

theorem OpcodeSelects.toggleRelay (a0 a1 : Int) : OpcodeSelects.Statement (.toggleRelay a0 a1) :=
  fun _ _ => ⟨rfl, rfl⟩

theorem OpcodeSelects.emergencyStop (a0 a1 : Int) : OpcodeSelects.Statement (.emergencyStop a0 a1) :=
  fun _ _ => ⟨rfl, rfl⟩

theorem OpcodeSelects.displayAddress (a0 a1 : Int) : OpcodeSelects.Statement (.displayAddress a0 a1) :=
  fun _ _ => ⟨rfl, rfl⟩

theorem OpcodeSelects.setAddress (a0 a1 : Int) : OpcodeSelects.Statement (.setAddress a0 a1) :=
  fun _ _ => ⟨rfl, rfl⟩

theorem OpcodeSelects.resetAddress (a0 a1 : Int) : OpcodeSelects.Statement (.resetAddress a0 a1) :=
  fun _ _ => ⟨rfl, rfl⟩

/-- A code with its top bit 1 is unhandled, each of the eight alike (R49). -/
theorem OpcodeSelects.unhandled (n : BitVec 4) (a0 a1 : Int) : OpcodeSelects.Statement (.unhandled n a0 a1) := by
  intro argw h
  have hn : n.getLsbD 3 = true := by
    simp only [Instr.wellFormed, Bool.and_eq_true] at h
    exact h.1
  have key : ∀ m : BitVec 4, m.getLsbD 3 = true → ∀ x y : Int, decodeOp m x y = .unhandled m x y := by
    intro m hm x y
    unfold decodeOp
    split <;> first | rfl | exact absurd hm (by decide)
  exact ⟨rfl, key n hn a0 a1⟩

end Sys2Proof.Laws
end

