-- ==== Sys2Proof/Laws/Units.lean ====
section
/-! SUPPORT. What the byte primitives and the units compute, said once in integers, for the proofs to cite. -/

namespace Sys2Proof.Machine

/-- `add8` adds modulo 256 (00_scope.md R8). -/
theorem toNat_add8 (a b : Byte) : (add8 a b).toNat = (a.toNat + b.toNat) % 256 := by
  simp [add8, BitVec.toNat_add]

/-- `not8` is `255 - a` (00_scope.md R8). -/
theorem toNat_not8 (a : Byte) : (not8 a).toNat = 255 - a.toNat := by
  simp [not8, BitVec.toNat_not]

/-- `trunc8` is the floored remainder modulo 256 (00_scope.md R8). -/
theorem toNat_trunc8 (n : Int) : (trunc8 n).toNat = (n % 256).toNat := by
  simp [trunc8, BitVec.toNat_ofInt]

/-- A valid index is answered with its relay code. -/
theorem validate_valid {n : Int} (h1 : 1 ≤ n) (h8 : n ≤ 8) : validate n = .valid (relayCode n) :=
  if_pos ⟨h1, h8⟩

/-- Every other integer is invalid. -/
theorem validate_invalid {n : Int} (h : n < 1 ∨ 8 < n) : validate n = .invalid :=
  if_neg (by omega)

@[simp] theorem encodeFrame_b0 (a i v : Byte) : (encodeFrame a i v).b0 = marker := rfl
@[simp] theorem encodeFrame_b1 (a i v : Byte) : (encodeFrame a i v).b1 = a := rfl
@[simp] theorem encodeFrame_b2 (a i v : Byte) : (encodeFrame a i v).b2 = i := rfl
@[simp] theorem encodeFrame_b3 (a i v : Byte) : (encodeFrame a i v).b3 = v := rfl
@[simp] theorem encodeFrame_b4 (a i v : Byte) : (encodeFrame a i v).b4 = chk marker a i v := rfl

/-- An encoded frame is recognised as one. -/
@[simp] theorem encodeFrame_isEncoded (a i v : Byte) : (encodeFrame a i v).isEncoded = true := by
  simp [Frame.isEncoded]

end Sys2Proof.Machine
end

