-- ==== Sys2Proof/Tests/Slice0.lean ====
section
/-! SUPPORT. Tests of the model against the spec's own listings (95_test_vectors.md, the worked examples of the rules),
and, for each statement with hypotheses, a witness that something meets them all. Expected values are the spec's. -/

namespace Sys2Proof.Tests

open Sys2Proof Sys2Proof.Machine Sys2Proof.Safety Sys2Proof.Stated

/-- The registers of a next state. -/
def regsOf : Host.Outcome State Fault Refusal → Option Registers
  | .next t => some t.regs
  | .fault _ => none
  | .refused _ => none

/-- The registers after a command, from the reset state. -/
def after (i : Instr) : Option Registers := regsOf (exec i State.reset)

/-- A block after reset, of the width of the port sample that it is given. -/
def givenAt (c : Config) (p : PortSample c.argw) : State := { State.resetWith c with inputs := [p] }

/-- A machine of the default width after reset that is given one port sample. -/
def given (p : PortSample 32) : State := givenAt Config.default p

/-- A machine at power-up that is given one port sample. -/
def unreset (p : PortSample 32) : State :=
  { config := Config.default, regs := invalidShown, resetSeen := false, inputs := [p] }

/-- The narrowest block, after reset, whose ports present a command. -/
def presenting8 (i : Instr) : State := givenAt ⟨8, by decide⟩ (commandSample (encodeCmd 8 i))

/-- A block with arguments of 64 bits, after reset, whose ports present a command. -/
def presenting64 (i : Instr) : State := givenAt ⟨64, by decide⟩ (commandSample (encodeCmd 64 i))

/-- A machine after reset whose ports present a command. -/
def presenting (i : Instr) : State := given (commandSample (encodeCmd 32 i))

/-- A machine after reset at a reset edge, with a command presented as well. -/
def resetting : State := given ⟨true, true, encodeCmd 32 (.set 1 5)⟩

/-- A machine showing an old error at an idle edge. -/
def idling : State :=
  { config := Config.default, regs := unhandledShown, resetSeen := true, inputs := [idleSample 32] }

/-! ## WellFormed refuses (30_encoding.md R42, R49; 00_scope.md R5) -/

theorem test_ill_formed_first_argument :
    (Instr.set 2147483648 0).wellFormed 32 = false ∧ (Instr.setRelay (-2147483649) 1).wellFormed 32 = false ∧
    (Instr.clearRelay 2147483648 1).wellFormed 32 = false ∧ (Instr.toggleRelay 2147483648 1).wellFormed 32 = false ∧
    (Instr.emergencyStop 2147483648 0).wellFormed 32 = false ∧
    (Instr.displayAddress (-2147483649) 0).wellFormed 32 = false ∧
    (Instr.setAddress 128 0).wellFormed 8 = false ∧ (Instr.resetAddress (-129) 0).wellFormed 8 = false ∧
    (Instr.unhandled 8 128 0).wellFormed 8 = false := by decide

theorem test_ill_formed_second_argument :
    (Instr.set 0 2147483648).wellFormed 32 = false ∧ (Instr.setRelay 1 (-2147483649)).wellFormed 32 = false ∧
    (Instr.clearRelay 1 2147483648).wellFormed 32 = false ∧ (Instr.toggleRelay 1 2147483648).wellFormed 32 = false ∧
    (Instr.emergencyStop 0 2147483648).wellFormed 32 = false ∧
    (Instr.displayAddress 0 (-2147483649)).wellFormed 32 = false ∧
    (Instr.setAddress 0 128).wellFormed 8 = false ∧ (Instr.resetAddress 0 (-129)).wellFormed 8 = false ∧
    (Instr.unhandled 8 0 128).wellFormed 8 = false := by decide

theorem test_ill_formed_code : (Instr.unhandled 7 0 0).wellFormed 32 = false := by decide

theorem test_well_formed_bounds :
    (Instr.set (-2147483648) 2147483647).wellFormed 32 = true ∧ (Instr.unhandled 8 127 (-128)).wellFormed 8 = true := by
  decide

/-! ## Decoding, words as the spec lists them (95_test_vectors.md 2.4 and part 3) -/

theorem test_decode_set : decodeTableWord 72 0x00000012C00000100 = some (.set 300 256) := by decide
theorem test_decode_setRelay : decodeTableWord 72 0x10000000100000108 = some (.setRelay 1 264) := by decide
theorem test_decode_clearRelay : decodeTableWord 72 0x2FFFFFFFF00000008 = some (.clearRelay (-1) 8) := by decide
theorem test_decode_toggleRelay : decodeTableWord 72 0x30000006300000008 = some (.toggleRelay 99 8) := by decide
theorem test_decode_emergencyStop : decodeTableWord 72 0x4000000370000004D = some (.emergencyStop 55 77) := by decide
theorem test_decode_displayAddress : decodeTableWord 72 0x5FFFFFFFD00000009 = some (.displayAddress (-3) 9) := by decide
theorem test_decode_setAddress : decodeTableWord 72 0x600000063FFFFFF80 = some (.setAddress 99 (-128)) := by decide
theorem test_decode_resetAddress : decodeTableWord 72 0x7000000050000007B = some (.resetAddress 5 123) := by decide
theorem test_decode_unhandled : decodeTableWord 72 0xF0000000000000000 = some (.unhandled 15 0 0) := by decide

theorem test_decode_refuses :
    decodeTableWord 72 0x100000000000000000 = none ∧ decodeBytes 32 [0, 0] = .error .shortImage ∧
    decodeBytes 8 [0, 0, 0x10] = .error .padding := by decide

theorem test_encode_negative : encode (.clearRelay (-1) 8) = 0x2FFFFFFFF00000008 := by decide

theorem test_opTable_rows_disjoint_and_total :
    opTable.length = 9 ∧ ∀ op : BitVec 4, (opTable.filter (OpRow.selects · op)).length = 1 ∧
      (opTable.filter (OpRow.selects · op)).map OpRow.mnemonic = [(decodeOp op 0 0).mnemonic] := by decide

/-! ## The units (95_test_vectors.md 2.1 to 2.3) -/

theorem test_chk_vectors :
    chk 0 0 0 0 = 0 ∧ chk 1 0 0 0 = 255 ∧ chk 255 0 0 0 = 1 ∧ chk 255 255 255 255 = 4 ∧ chk 128 0 0 0 = 128 ∧
    chk 200 100 50 25 = 137 ∧ chk 13 243 0 0 = 0 ∧ chk 13 99 84 56 = 4 := by decide

theorem test_validate_vectors :
    [1, 2, 3, 4, 5, 6, 7, 8].map validate =
      [.valid 0x31, .valid 0x32, .valid 0x33, .valid 0x34, .valid 0x35, .valid 0x36, .valid 0x37, .valid 0x38] ∧
    ∀ n ∈ [-2147483648, -8, -1, 0, 9, 10, 49, 100, 255, 256, 257, 264, 65537, 2147483647], validate n = .invalid := by
  decide

theorem test_encodeFrame_vectors :
    (encodeFrame 0 0 0).packed = 0xF30000000D ∧ (encodeFrame 255 255 255).packed = 0xF6FFFFFF0D ∧
    (encodeFrame 243 0 0).packed = 0x000000F30D ∧ (encodeFrame 13 13 13).packed = 0xCC0D0D0D0D := by decide

/-! ## One step of each operation (95_test_vectors.md 2.4) -/

theorem test_set_truncates_both : after (.set 300 256) = some (shown ⟨0x0D, 0x2C, 0x42, 0x00, 0x85⟩) := by decide
theorem test_set_top_of_range : after (.set 99 255) = some (shown ⟨0x0D, 0x63, 0x42, 0xFF, 0x4F⟩) := by decide
theorem test_setRelay_raw_index : after (.setRelay 1 8) = some (shown ⟨0x0D, 0x01, 0x53, 0x08, 0x97⟩) := by decide
theorem test_setRelay_whole_index : after (.setRelay 1 264) = some invalidShown := by decide
theorem test_clearRelay_code : after (.clearRelay (-1) 8) = some (shown ⟨0x0D, 0xFF, 0x43, 0x38, 0x79⟩) := by decide
theorem test_clearRelay_code_as_index : after (.clearRelay 1 49) = some invalidShown := by decide
theorem test_toggleRelay_code : after (.toggleRelay 99 8) = some (shown ⟨0x0D, 0x63, 0x54, 0x38, 0x04⟩) := by decide
theorem test_toggleRelay_below : after (.toggleRelay 1 0) = some invalidShown := by decide
theorem test_emergencyStop_junk : after (.emergencyStop 55 77) = some (shown ⟨0x0D, 0x00, 0x45, 0x00, 0xAE⟩) := by
  decide
theorem test_displayAddress_junk : after (.displayAddress (-3) 9) = some (shown ⟨0x0D, 0x00, 0x44, 0x00, 0xAF⟩) := by
  decide
theorem test_setAddress_negative : after (.setAddress 99 (-128)) = some (shown ⟨0x0D, 0x63, 0x54, 0x80, 0xBC⟩) := by
  decide
theorem test_setAddress_zero : after (.setAddress 1 0) = some (shown ⟨0x0D, 0x01, 0x54, 0x00, 0x9E⟩) := by decide
theorem test_resetAddress_top : after (.resetAddress 99 0) = some (shown ⟨0x0D, 0x00, 0x41, 0x63, 0x4F⟩) := by decide
theorem test_resetAddress_negative : after (.resetAddress (-1) 0) = some (shown ⟨0x0D, 0x00, 0x41, 0xFF, 0xB3⟩) := by
  decide
theorem test_unhandled_not_invalid : after (.unhandled 12 (-1) (-1)) = some unhandledShown := by decide

/-! ## The step (95_test_vectors.md 2.5) -/

theorem test_reset_edge_loses_command : regsOf (step resetting) = some resetShown := by decide
theorem test_idle_edge_clears_strobe_only :
    regsOf (step idling) = some ⟨⟨0, 0, 0, 0, 0⟩, false, false, true, false⟩ := by decide
theorem test_command_edge :
    regsOf (step (presenting (.toggleRelay 99 8))) = some (shown ⟨0x0D, 0x63, 0x54, 0x38, 0x04⟩) := by decide
theorem test_fetch_word_runs :
    regsOf (step (State.reset.withFetchWord 72 0x00000000100000005)) =
      some (shown ⟨0x0D, 0x01, 0x42, 0x05, 0xAB⟩) := by decide
theorem test_step_of_8_bit_block :
    regsOf (step (presenting8 (.setRelay (-1) 8))) = some (shown ⟨0x0D, 0xFF, 0x53, 0x08, 0x99⟩) ∧
    regsOf (step (presenting8 (.setRelay (-1) (-128)))) = some invalidShown := by decide
theorem test_step_of_64_bit_block :
    regsOf (step (presenting64 (.set 4294967297 4294967301))) = some (shown ⟨0x0D, 0x01, 0x42, 0x05, 0xAB⟩) ∧
    regsOf (step (presenting64 (.setRelay 5 4294967299))) = some invalidShown := by decide
theorem test_fetch_word_at_8_bits :
    (nextSample ((State.resetWith ⟨8, by decide⟩).withFetchWord 72 0x00000012C00000100)).cmdValid = false ∧
    regsOf (step ((State.resetWith ⟨8, by decide⟩).withFetchWord 72 0x00000000100000005)) =
      some (shown ⟨0x0D, 0x01, 0x42, 0x05, 0xAB⟩) := by decide
theorem test_literal_needs_no_space : parseLine "RESET_ADDRESS'A'".toList = .ok (some (.resetAddress 65)) := by decide
theorem test_before_reset : step (unreset (idleSample _)) = .refused .beforeReset := rfl
theorem test_frame_o_low_byte_first : (outputs (shown ⟨0x0D, 0x01, 0x42, 0x05, 0xAB⟩)).frameO = 0xAB0542010D := by decide

/-- False claims of 95_test_vectors.md section 4 that can be said of one command. -/
theorem test_false_variants :
    chk 13 1 66 5 ≠ 172 ∧ after (.setRelay 5 3) ≠ some (shown (encodeFrame 5 0x53 0x33)) ∧
    after (.clearRelay 5 3) ≠ some (shown (encodeFrame 5 0x43 0x03)) ∧
    after (.setRelay 1 0) ≠ some (shown (encodeFrame 1 0x53 0)) ∧ (after (.set 100 0)).map Registers.einv = some false := by
  decide

/-! ## Witnesses: something meets the hypotheses of each statement that has any -/

theorem witness_DecodeOfEncodedCommand :
    8 ≤ 8 ∧ (Instr.set (-128) 127).wellFormed 8 = true ∧ (Instr.unhandled 8 127 (-128)).wellFormed 8 = true ∧
    (Instr.unhandled 15 0 0).wellFormed 8 = true := by decide

theorem witness_EncodeOfDecodedWord : 8 ≤ 8 := by decide

theorem witness_ByteImageRoundTrip :
    8 ≤ 8 ∧ (Instr.setRelay (-128) 127).wellFormed 8 = true ∧
    ([0xFF, 0xFF] : List Byte).length < (2 * 8 + 4 + 7) / 8 ∧
    ([0, 0, 0x10] : List Byte).length = (2 * 8 + 4 + 7) / 8 ∧ 2 ^ (2 * 8 + 4) ≤ bytesWord [0, 0, 0x10] := by decide

theorem witness_FormatsOfCommandAndFrame : 8 ≤ 8 := by decide

theorem witness_OperationCodesSelect :
    (8 : BitVec 4).getLsbD 3 = true ∧
    (∃ t, exec (decodeOp 0 5 3) State.reset = .next t ∧ t.regs.fv = true) ∧
    (∃ t, exec (decodeOp 7 5 3) State.reset = .next t ∧ t.regs.fv = true) ∧
    (∃ t, exec (decodeOp 8 5 3) State.reset = .next t) := ⟨rfl, ⟨_, rfl, rfl⟩, ⟨_, rfl, rfl⟩, ⟨_, rfl⟩⟩

theorem witness_SharedLetterAndRawIndex : isIndex 1 ∧ isIndex 8 := by unfold isIndex; decide

theorem witness_AssemblerWords :
    8 ≤ 8 ∧ argInRange 8 (-128) = true ∧ argInRange 8 127 = true ∧
    (argInRange 8 128 = false ∨ argInRange 8 0 = false) ∧ (argInRange 8 0 = false ∨ argInRange 8 (-129) = false) ∧
    argInRange 8 128 = false ∧
    (8 ≤ (8 : Int) ∧ (8 : Int) ≤ 15) ∧ ((7 : Int) < 8 ∨ 15 < (7 : Int)) ∧ ((16 : Int) < 8 ∨ 15 < (16 : Int)) := by decide

theorem witness_ChecksumUniqueAndSymmetric :
    (sum4 13 1 66 5 + (171 : Byte).toNat) % 256 = 0 ∧ [5, 66, 1, 13].Perm [13, 1, 66, 5] := by decide

theorem witness_ValidatorAcceptsOneToEight :
    ((1 : Int) ≤ 1 ∧ (1 : Int) ≤ 8) ∧ ((1 : Int) ≤ 8 ∧ (8 : Int) ≤ 8) ∧ ((0 : Int) < 1 ∨ 8 < (0 : Int)) ∧
    ((9 : Int) < 1 ∨ 8 < (9 : Int)) := by decide

theorem witness_EncoderLaws :
    (⟨0x0D, 0x01, 0x42, 0x05, 0xAB⟩ : Frame).b0 = 13 ∧ (⟨0x0D, 0x01, 0x42, 0x05, 0xAB⟩ : Frame).sum8 = 0 ∧
    encodeFrame 1 0x42 5 = encodeFrame 1 0x42 5 := by decide

theorem witness_TruncationKeepsTheLowByte : 8 ≤ 8 := by decide

theorem witness_DatapathComputesExec : 8 ≤ 8 := by decide

theorem witness_SetSendsRawValue : (encodeCmd 32 (.set 1 5)).op = 0 := rfl

theorem witness_SetRelaySendsRawIndex :
    (encodeCmd 32 (.setRelay 5 3)).op = 1 ∧ ((1 : Int) ≤ 1 ∧ (1 : Int) ≤ 8) ∧ ((1 : Int) ≤ 8 ∧ (8 : Int) ≤ 8) ∧
    ((0 : Int) < 1 ∨ 8 < (0 : Int)) ∧ ((9 : Int) < 1 ∨ 8 < (9 : Int)) := by decide

theorem witness_ClearRelaySendsCode :
    (encodeCmd 32 (.clearRelay 5 3)).op = 2 ∧ ((1 : Int) ≤ 1 ∧ (1 : Int) ≤ 8) ∧ ((1 : Int) ≤ 8 ∧ (8 : Int) ≤ 8) ∧
    ((0 : Int) < 1 ∨ 8 < (0 : Int)) ∧ ((9 : Int) < 1 ∨ 8 < (9 : Int)) := by decide

theorem witness_ToggleRelaySendsCode :
    (encodeCmd 32 (.toggleRelay 7 2)).op = 3 ∧ ((1 : Int) ≤ 1 ∧ (1 : Int) ≤ 8) ∧ ((1 : Int) ≤ 8 ∧ (8 : Int) ≤ 8) ∧
    ((0 : Int) < 1 ∨ 8 < (0 : Int)) ∧ ((9 : Int) < 1 ∨ 8 < (9 : Int)) := by decide

theorem witness_EmergencyStopIsConstant : (encodeCmd 32 (.emergencyStop 55 77)).op = 4 := rfl

theorem witness_DisplayAddressIsConstant : (encodeCmd 32 (.displayAddress 0 0)).op = 5 := rfl

theorem witness_SetAddressSendsNewAddress : (encodeCmd 32 (.setAddress 1 2)).op = 6 := rfl

theorem witness_ResetAddressSendsTarget : (encodeCmd 32 (.resetAddress 5 0)).op = 7 := rfl

theorem witness_UnhandledGivesNoFrame :
    (8 : BitVec 4).getLsbD 3 = true ∧ (15 : BitVec 4).getLsbD 3 = true ∧
    (encodeCmd 32 (.unhandled 8 0 0)).op.getLsbD 3 = true ∧ (encodeCmd 32 (.unhandled 15 0 0)).op.getLsbD 3 = true := by
  decide

theorem witness_ArgumentsThatMatter :
    Instr.setRelay ∈ [Instr.setRelay, Instr.clearRelay, Instr.toggleRelay] ∧ isIndex 8 ∧ (1 : Int) ≠ 0 := by
  unfold isIndex; exact ⟨List.mem_cons_self, by decide, by decide⟩

theorem witness_EveryCommandCompletes : ∃ t', exec (.set 1 5) idling = .next t' := ⟨_, rfl⟩

theorem witness_InvalidIndexExactly :
    (after (decodeCmd (encodeCmd 32 (.setRelay 1 0)))).map Registers.einv = some true ∧
    (after (decodeCmd (encodeCmd 32 (.toggleRelay 1 9)))).map Registers.einv = some true := by decide

theorem witness_UnhandledExactly :
    (after (decodeCmd (encodeCmd 32 (.unhandled 8 1 1)))).map Registers.eunh = some true ∧
    (after (decodeCmd (encodeCmd 32 (.unhandled 15 1 1)))).map Registers.eunh = some true := by decide

theorem witness_ResponseKindCodes :
    (nextSample resetting).rst = true ∧ idling.resetSeen = true ∧ (nextSample idling).rst = false ∧
    (nextSample idling).cmdValid = false := by decide

theorem witness_ResetBeatsUnhandledBeatsInvalid :
    (nextSample resetting).rst = true ∧ (presenting (.unhandled 8 0 (-1))).resetSeen = true ∧
    (nextSample (presenting (.unhandled 8 0 (-1)))).rst = false ∧
    (nextSample (presenting (.unhandled 8 0 (-1)))).cmdValid = true ∧
    8 ≤ (nextSample (presenting (.unhandled 8 0 (-1)))).cmd.op.toNat := by decide

theorem witness_NoStuckState :
    idling.resetSeen = true ∧ (nextSample resetting).rst = true ∧ (unreset (idleSample _)).resetSeen = false ∧
    (nextSample (unreset (idleSample _))).rst = false ∧ ∃ t, step idling = .next t :=
  ⟨rfl, rfl, rfl, rfl, _, rfl⟩

theorem witness_StepRunsTheDecodedCommand :
    (presenting (.setRelay 5 3)).resetSeen = true ∧ (nextSample (presenting (.setRelay 5 3))).rst = false ∧
    (nextSample (presenting (.setRelay 5 3))).cmdValid = true ∧ (Instr.setRelay 5 3).wellFormed 32 = true ∧
    (presenting (.setRelay 5 3)).inputs = ⟨false, true, encodeCmd 32 (.setRelay 5 3)⟩ :: [] ∧
    (presenting8 (.setRelay (-128) 127)).resetSeen = true ∧ (Instr.setRelay (-128) 127).wellFormed 8 = true ∧
    (presenting8 (.setRelay (-128) 127)).inputs = ⟨false, true, encodeCmd 8 (.setRelay (-128) 127)⟩ :: [] := by decide

theorem witness_EdgePerformsOneStep :
    (nextSample resetting).rst = true ∧
    ((presenting (.set 1 5)).resetSeen = true ∧ (nextSample (presenting (.set 1 5))).rst = false ∧
      (nextSample (presenting (.set 1 5))).cmdValid = true) ∧
    execResponse 0 1 5 = .frame ⟨0x0D, 0x01, 0x42, 0x05, 0xAB⟩ ∧ execResponse 2 1 9 = .error .invalidIndex ∧
    execResponse 12 1 1 = .error .unhandled ∧
    (idling.resetSeen = true ∧ (nextSample idling).rst = false ∧ (nextSample idling).cmdValid = false) := by decide

theorem witness_ResetValues :
    (nextSample (unreset (resetSample _))).rst = true ∧ (unreset (resetSample _)).resetSeen = false ∧
    idling.resetSeen = true := by decide

theorem witness_ResetIsIdempotentAndLosesTheCommand :
    (nextSample resetting).rst = true ∧ (nextSample (unreset (resetSample _))).rst = true ∧
    ∃ t, step { resetting with inputs := [resetSample _, resetSample _] } = .next t ∧ (nextSample t).rst = true :=
  ⟨rfl, rfl, _, rfl, rfl⟩

theorem witness_OutputsOfTheRegisters : flagCount (shown ⟨0x0D, 0x01, 0x42, 0x05, 0xAB⟩) ≤ 1 ∧ flagCount resetShown ≤ 1 := by
  decide

theorem witness_StrobeMarksAcceptedCommands :
    (∃ t, step (presenting (.set 1 5)) = .next t) ∧ (∃ t, step idling = .next t) ∧ ∃ t, step resetting = .next t :=
  ⟨⟨_, rfl⟩, ⟨_, rfl⟩, ⟨_, rfl⟩⟩

theorem witness_RegisterInvariantKept : StateOk (presenting (.setRelay 5 3)) ∧ ∃ t, step (presenting (.setRelay 5 3)) = .next t :=
  ⟨by unfold StateOk RegistersOk; decide, _, rfl⟩

theorem witness_ShownFrameStaysProducible :
    Producible { idling with regs := shown ⟨0x0D, 0x01, 0x42, 0x05, 0xAB⟩ } ∧
    ∃ t, step { idling with regs := shown ⟨0x0D, 0x01, 0x42, 0x05, 0xAB⟩ } = .next t :=
  ⟨by unfold Producible; decide, _, rfl⟩

theorem witness_FramesNeverProduced :
    frameReadings ⟨0x0D, 0x05, 0x43, 0x33, 0x78⟩ ≠ [] ∧ frameReadings ⟨0x0D, 0x05, 0x53, 0x03, 0x98⟩ ≠ [] ∧
    frameReadings ⟨0x0D, 0x00, 0x45, 0x00, 0xAE⟩ ≠ [] ∧ frameReadings ⟨0x0D, 0x00, 0x44, 0x00, 0xAF⟩ ≠ [] ∧
    frameReadings ⟨0x0D, 0x00, 0x41, 0x05, 0xAD⟩ ≠ [] := by decide

theorem witness_NoFlagMeansNoCommandSinceReset : ∃ p ∈ [resetSample 32, idleSample 32], p.rst = true := by decide

theorem witness_RunIsRepeatedEdges :
    idling.resetSeen = true ∧ (unreset (resetSample _)).resetSeen = false ∧
    (nextSample (unreset (resetSample _))).rst = true := by decide

theorem witness_ResponseIgnoresHistory :
    (presenting (.set 1 5)).resetSeen = true ∧
    ({ presenting (.set 1 5) with regs := invalidShown }).resetSeen = true ∧
    sameSample (nextSample (presenting (.set 1 5))) (nextSample { presenting (.set 1 5) with regs := invalidShown }) ∧
    sameSample (nextSample (presenting (.set 1 5))) (nextSample (presenting8 (.set 1 5))) ∧
    (nextSample (presenting (.set 1 5))).rst = false ∧ (nextSample (presenting (.set 1 5))).cmdValid = true := by
  unfold sameSample; decide

theorem witness_FrameValidLicencesTransmission :
    idling.resetSeen = true ∧ idling.regs.fv = false ∧ StateOk { idling with regs := shown ⟨0x0D, 0x01, 0x42, 0x05, 0xAB⟩ } ∧
    handOver { idling with regs := shown ⟨0x0D, 0x01, 0x42, 0x05, 0xAB⟩ } = .ok [0x0D, 0x01, 0x42, 0x05, 0xAB] :=
  ⟨rfl, rfl, by unfold StateOk RegistersOk; decide, rfl⟩

theorem witness_OverrunIsAHostError :
    (presenting (.set 1 5)).resetSeen = true ∧ (nextSample (presenting (.set 1 5))).rst = false ∧
    (nextSample (presenting (.set 1 5))).cmdValid = true ∧
    (⟨presenting (.set 1 5), true, [], 0, 0⟩ : HostSystem).busy = true ∧
    (⟨presenting (.set 1 5), false, [], 0, 0⟩ : HostSystem).busy = false := by decide

theorem witness_OneFrameOrOneDiagnostic :
    (∃ h', (⟨presenting (.set 1 5), false, [], 0, 0⟩ : HostSystem).edge = .ok h') ∧
    (nextSample (presenting (.set 1 5))).accepts = true ∧
    (∃ h', (⟨idling, true, [], 0, 0⟩ : HostSystem).edge = .ok h') ∧ (nextSample idling).accepts = false :=
  ⟨⟨_, rfl⟩, rfl, ⟨_, rfl⟩, rfl⟩

theorem witness_NoFlagInvariantKept :
    ((presenting (.set 1 5)).resetSeen = true → (flagCount (presenting (.set 1 5)).regs = 0 ↔ false = false)) ∧
    (∃ t, step (presenting (.set 1 5)) = .next t) ∧ (idling.resetSeen = true → (flagCount idling.regs = 0 ↔ true = false)) ∧
    (∃ t, step idling = .next t) ∧ (flagCount unhandledShown = 0 ↔ true = false) ∧ (flagCount resetShown = 0 ↔ false = false) :=
  ⟨by decide, ⟨_, rfl⟩, by decide, ⟨_, rfl⟩, by decide, by decide⟩

theorem witness_UnhandledTermOfAnyCode : (7 : BitVec 4).getLsbD 3 = false ∧ (0 : BitVec 4).getLsbD 3 = false := by decide

theorem witness_PlacedWordRuns :
    decodeTableWord 72 0x10000000500000003 = some (.setRelay 5 3) ∧
    (Instr.setRelay 5 3).wellFormed (presenting8 (.set 1 5)).config.argw = true ∧
    (Instr.setRelay 5 3).wellFormed (unreset (idleSample _)).config.argw = true := by decide

theorem witness_WidthIsConfiguration : 8 ≤ 8 ∧ (∃ c : Config, c.argw = 8) ∧ ∃ t, step (presenting8 (.set 1 5)) = .next t :=
  ⟨by decide, ⟨⟨8, by decide⟩, rfl⟩, _, rfl⟩

theorem witness_NoRuleDependsOnTheWidth :
    (presenting64 (.setRelay (-1) 3)).regs = (presenting8 (.setRelay (-1) 3)).regs ∧
    (presenting64 (.setRelay (-1) 3)).resetSeen = (presenting8 (.setRelay (-1) 3)).resetSeen ∧
    sameSample (nextSample (presenting64 (.setRelay (-1) 3))) (nextSample (presenting8 (.setRelay (-1) 3))) := by
  unfold sameSample; decide

end Sys2Proof.Tests
end

/-! PROOFS. The statements of 00_scope.md (R5, R6, R8, R9): arguments as integers and their low bytes, the width as a
configuration, and that no step depends on it. -/

namespace Sys2Proof

/-! ## Two's-complement integers (00_scope.md R8) -/

/-- The bits below the top bit, as a number. -/
theorem toNat_extractLsb'_below_msb {n : Nat} (x : BitVec (n + 1)) :
    (x.extractLsb' 0 n).toNat = if x.msb then x.toNat - 2 ^ n else x.toNat := by
  have hlt : x.toNat < 2 ^ n * 2 := Nat.pow_succ 2 n ▸ x.isLt
  rw [BitVec.msb_eq_decide, BitVec.extractLsb'_toNat, Nat.shiftRight_zero, Nat.add_sub_cancel]
  by_cases h : 2 ^ n ≤ x.toNat
  · have hmod : x.toNat % 2 ^ n = x.toNat - 2 ^ n := by
      rw [Nat.mod_eq_sub_mod h, Nat.mod_eq_of_lt (by omega)]
    simpa [h] using hmod
  · simpa [h] using Nat.mod_eq_of_lt (Nat.lt_of_not_le h)

/-- The spec's formula for `sint` is the two's-complement value, at every width, 0 included. -/
theorem sint_eq_toInt {argw : Nat} (x : BitVec argw) : sint x = x.toInt := by
  cases argw with
  | zero => simp [sint, BitVec.eq_nil x]
  | succ n =>
    have hbit : x.getLsbD n = x.msb := (BitVec.msb_eq_getLsbD_last x).symm
    rw [BitVec.toInt_eq_msb_cond]
    simp only [sint, Nat.add_sub_cancel, toNat_extractLsb'_below_msb, hbit]
    cases h : x.msb with
    | false => simp
    | true =>
      have hle : 2 ^ n ≤ x.toNat := BitVec.le_toNat_of_msb_true h
      have hpow : 2 ^ (n + 1) = 2 ^ n * 2 := Nat.pow_succ 2 n
      simp only [if_true, Bool.toNat_true, Nat.mul_one]
      omega

/-- An `argw`-bit pattern denotes an integer of the range of `argw` bits. -/
theorem argInRange_sint {argw : Nat} (x : BitVec argw) : argInRange argw (sint x) = true := by
  have hlo : -(2 : Int) ^ (argw - 1) ≤ x.toInt := BitVec.le_toInt x
  have hhi : x.toInt < (2 : Int) ^ (argw - 1) := BitVec.toInt_lt
  simp [argInRange, sint_eq_toInt, hlo, hhi]

/-- The integer determines the pattern. -/
theorem ofInt_sint {argw : Nat} (x : BitVec argw) : BitVec.ofInt argw (sint x) = x := by
  rw [sint_eq_toInt, BitVec.ofInt_toInt]

end Sys2Proof

namespace Sys2Proof.Machine

open Sys2Proof.Stated

/-! ## The low byte of an argument (00_scope.md R9, 42_frame_encoder.md R81) -/

/-- `trunc8` as an integer: the floored remainder, never negative. -/
theorem toNat_trunc8_int (n : Int) : ((trunc8 n).toNat : Int) = n % 256 := by
  rw [toNat_trunc8, Int.toNat_of_nonneg (Int.emod_nonneg n (by decide))]

/-- Truncation wires bits 7 to 0 of the pattern, for a negative argument as well: `2 ^ argw` is a
multiple of 256. -/
theorem trunc8_sint {argw : Nat} (h : 8 ≤ argw) (x : BitVec argw) : trunc8 (sint x) = x.extractLsb' 0 8 := by
  have hdvd : (256 : Int) ∣ ((2 ^ argw : Nat) : Int) := by
    exact_mod_cast (Nat.pow_dvd_pow 2 h : 2 ^ 8 ∣ 2 ^ argw)
  have hmod : x.toInt % 256 = (x.toNat : Int) % 256 := by
    rw [← Int.emod_emod_of_dvd _ hdvd, BitVec.toInt_eq_toNat_bmod, Int.bmod_emod, Int.emod_emod_of_dvd _ hdvd]
  apply BitVec.eq_of_toNat_eq
  rw [toNat_trunc8, sint_eq_toInt, hmod, BitVec.extractLsb'_toNat]
  simp only [Nat.shiftRight_zero]
  omega

/-- Settles O15: `sint` is the library's `toInt`, and 256 divides `2 ^ argw`. -/
theorem truncationKeepsTheLowByte : Obligations.TruncationKeepsTheLowByte := by
  refine ⟨fun argw x h => ?_, toNat_trunc8_int, by decide, by decide, by decide, by decide, by decide⟩
  exact ⟨sint_eq_toInt x, argInRange_sint x, ofInt_sint x, trunc8_sint h x⟩

/-! ## The step as the edge function (10_state.md R19) -/

/-- A command on the ports writes the registers of its response. -/
theorem exec_decodeCmd {argw : Nat} (c : Cmd argw) (s : State) :
    exec (decodeCmd c) s = .next { s with regs := (Cmd.response c).registers } := by
  rw [exec_eq, decodeCmd, ← execResponse_eq, Cmd.response]

/-- Once a reset has been seen, or at a reset edge, a step is the register update `edge`; the reset counts as seen
after it and the sample is used up. -/
theorem step_eq_edge {s : State} (h : (nextSample s).rst = true ∨ s.resetSeen = true) :
    step s = .next { tick s with regs := edge (nextSample s) s.regs, resetSeen := true } := by
  cases hr : (nextSample s).rst with
  | true => simp [step_reset hr, resetStep, edge, hr]
  | false =>
    have hs : s.resetSeen = true := by simpa [hr] using h
    cases hv : (nextSample s).cmdValid with
    | true => simp [step_command hs hr hv, exec_decodeCmd, edge, hr, hv, tick, hs]
    | false => simp [step_idle hs hr hv, idleStep, edge, hr, hv, tick, hs]

/-! ## The width (00_scope.md R5, R6) -/

/-- No step changes the configuration. -/
theorem step_config {s t : State} (h : step s = .next t) : t.config = s.config := by
  obtain ⟨-, rfl⟩ | ⟨-, -, -, rfl⟩ | ⟨-, -, -, rfl⟩ := step_cases h <;> rfl

/-- The widths of the configurations are the numbers from 8 on. -/
theorem exists_config_argw_iff (n : Nat) : 8 ≤ n ↔ ∃ c : Config, c.argw = n := by
  constructor
  · intro h
    exact ⟨⟨n, h⟩, rfl⟩
  · rintro ⟨c, rfl⟩
    exact c.argw_ge

/-- Settles O55: by the inversion of `step`, no step writes the configuration. -/
theorem widthIsConfiguration : Obligations.WidthIsConfiguration :=
  ⟨exists_config_argw_iff, fun _ => rfl, rfl, fun _ t h => ⟨step_config h, t.config.argw_ge⟩⟩

/-- EXEC reads the arguments as integers only, so samples that carry the same present the same response. -/
theorem response_congr {m n : Nat} {p : PortSample m} {q : PortSample n} (h : sameSample p q) :
    Cmd.response p.cmd = Cmd.response q.cmd := by
  obtain ⟨-, -, hop, ha0, ha1⟩ := h
  rw [Cmd.response, Cmd.response, hop, ha0, ha1]

/-- The register update does not depend on the width of the sample. -/
theorem edge_congr {m n : Nat} {p : PortSample m} {q : PortSample n} (h : sameSample p q) (r : Registers) :
    edge p r = edge q r := by
  have hresp := response_congr h
  obtain ⟨hrst, hvalid, -, -, -⟩ := h
  rw [edge, edge, hrst, hvalid, hresp]

/-- Settles O56: both blocks refuse before the first reset, and otherwise both step by `edge`, which does not see the
width. -/
theorem noRuleDependsOnTheWidth : Obligations.NoRuleDependsOnTheWidth := by
  intro s s' hregs hseen hsame
  have hrst : (nextSample s).rst = (nextSample s').rst := hsame.1
  by_cases h : (nextSample s).rst = true ∨ s.resetSeen = true
  · have h' : (nextSample s').rst = true ∨ s'.resetSeen = true := by rwa [hrst, hseen] at h
    exact .inr ⟨_, _, step_eq_edge h, step_eq_edge h', hregs ▸ edge_congr hsame s.regs, rfl⟩
  · obtain ⟨hr, hs⟩ : (nextSample s).rst = false ∧ s.resetSeen = false := by simpa using h
    exact .inl ⟨_, step_beforeReset hr hs, step_beforeReset (hrst ▸ hr) (hseen ▸ hs)⟩

end Sys2Proof.Machine

/-! PROOFS. The statements of 10_state.md: the registers after one rising edge (R19), what every edge keeps (R21), the
reset values (R24), the outputs (R20) and the responses counted over a history (R18). -/

namespace Sys2Proof

/-! ## Reading back a presented command (30_encoding.md R41, R42) -/

/-- An integer in the range of the width survives its pattern. -/
theorem sint_ofInt {argw : Nat} (hw : 0 < argw) {a : Int} (ha : argInRange argw a = true) :
    sint (BitVec.ofInt argw a) = a := by
  obtain ⟨hlo, hhi⟩ : -(2 : Int) ^ (argw - 1) ≤ a ∧ a < (2 : Int) ^ (argw - 1) := by simpa [argInRange] using ha
  rw [sint_eq_toInt, BitVec.toInt_ofInt_eq_self hw hlo hhi]

/-- A well-formed command has both arguments in range. -/
theorem argInRange_of_wellFormed {argw : Nat} {i : Instr} (hi : i.wellFormed argw = true) :
    argInRange argw i.arg0 = true ∧ argInRange argw i.arg1 = true := by
  cases i with
  | unhandled n a0 a1 =>
    obtain ⟨-, hargs⟩ := Bool.and_eq_true_iff.mp hi
    exact Bool.and_eq_true_iff.mp hargs
  | _ => exact Bool.and_eq_true_iff.mp hi

/-- The operation code and the two integers of a well-formed command determine it. -/
theorem decodeOp_opcode {argw : Nat} {i : Instr} (hi : i.wellFormed argw = true) :
    decodeOp i.opcode i.arg0 i.arg1 = i := by
  cases i with
  | unhandled n a0 a1 =>
    obtain ⟨hn, -⟩ := Bool.and_eq_true_iff.mp hi
    exact Machine.decodeOp_unhandled hn a0 a1
  | _ => rfl

/-- Decoding the ports that present a well-formed command gives the command back. -/
theorem decodeCmd_encodeCmd {argw : Nat} (hw : 0 < argw) {i : Instr} (hi : i.wellFormed argw = true) :
    decodeCmd (encodeCmd argw i) = i := by
  obtain ⟨h0, h1⟩ := argInRange_of_wellFormed hi
  simp only [decodeCmd, encodeCmd, sint_ofInt hw h0, sint_ofInt hw h1, decodeOp_opcode hi]

/-- Whatever its code, a command with arguments in range is well formed. -/
theorem wellFormed_decodeOp {argw : Nat} (op : BitVec 4) {a0 a1 : Int} (h0 : argInRange argw a0 = true)
    (h1 : argInRange argw a1 = true) : (decodeOp op a0 a1).wellFormed argw = true := by
  rcases Machine.opcode_cases op with h | h | h | h | h | h | h | h | h
  case inr.inr.inr.inr.inr.inr.inr.inr => simp [Machine.decodeOp_unhandled h, Instr.wellFormed, h, h0, h1]
  all_goals subst h; simp [decodeOp, Instr.wellFormed, h0, h1]

/-- Port values decode to well-formed commands only. -/
theorem wellFormed_decodeCmd {argw : Nat} (c : Cmd argw) : (decodeCmd c).wellFormed argw = true :=
  wellFormed_decodeOp c.op (argInRange_sint c.a0) (argInRange_sint c.a1)

end Sys2Proof

namespace Sys2Proof.Machine

open Sys2Proof.Safety Sys2Proof.Stated

/-! ## The register update of one edge (10_state.md R19) -/

theorem edge_reset {argw : Nat} {p : PortSample argw} (hr : p.rst = true) (r : Registers) :
    edge p r = Registers.reset := by
  simp [edge, hr]

/-- At a command edge the registers before it play no part. -/
theorem edge_command {argw : Nat} {p : PortSample argw} (hr : p.rst = false) (hv : p.cmdValid = true) (r : Registers) :
    edge p r = (Cmd.response p.cmd).registers := by
  simp [edge, hr, hv]

theorem edge_idle {argw : Nat} {p : PortSample argw} (hr : p.rst = false) (hv : p.cmdValid = false) (r : Registers) :
    edge p r = { r with rv := false } := by
  simp [edge, hr, hv]

/-- Everything that an edge can do to the registers. -/
theorem edge_cases {argw : Nat} (p : PortSample argw) (r : Registers) :
    (p.rst = true ∧ edge p r = Registers.reset) ∨
    (p.rst = false ∧ p.cmdValid = true ∧ edge p r = (Cmd.response p.cmd).registers) ∨
    (p.rst = false ∧ p.cmdValid = false ∧ edge p r = { r with rv := false }) := by
  cases hr : p.rst with
  | true => exact .inl ⟨rfl, edge_reset hr r⟩
  | false =>
    cases hv : p.cmdValid with
    | true => exact .inr (.inl ⟨rfl, rfl, edge_command hr hv r⟩)
    | false => exact .inr (.inr ⟨rfl, rfl, edge_idle hr hv r⟩)

/-- The inversion of `step` by the edge function: it answers only at a reset edge or after a reset, and then with the
registers of `edge`. -/
theorem step_edge_cases {s t : State} (h : step s = .next t) :
    ((nextSample s).rst = true ∨ s.resetSeen = true) ∧
      t = { tick s with regs := edge (nextSample s) s.regs, resetSeen := true } := by
  have hgo : (nextSample s).rst = true ∨ s.resetSeen = true := by
    obtain ⟨hr, -⟩ | ⟨hs, -⟩ | ⟨hs, -⟩ := step_cases h
    · exact .inl hr
    · exact .inr hs
    · exact .inr hs
  exact ⟨hgo, Host.Outcome.next.inj (h.symm.trans (step_eq_edge hgo))⟩

/-- EXEC of the ports is the response of the decoded command. -/
theorem response_eq {argw : Nat} (c : Cmd argw) : Cmd.response c = responseOf (decodeCmd c) :=
  execResponse_eq c.op (sint c.a0) (sint c.a1)

/-! ## The flags (10_state.md R15 to R18) -/

@[simp] theorem flagCount_reset : flagCount Registers.reset = 0 := rfl

/-- Every response sets exactly one flag. -/
@[simp] theorem flagCount_registers (r : Response) : flagCount r.registers = 1 := by
  obtain f | c := r
  · rfl
  · cases c <;> rfl

@[simp] theorem flagCount_with_rv (r : Registers) (b : Bool) : flagCount { r with rv := b } = flagCount r := rfl

/-- `RV` after an edge says whether a command was accepted at it. -/
theorem edge_rv {argw : Nat} (p : PortSample argw) (r : Registers) : (edge p r).rv = p.accepts := by
  obtain ⟨hr, he⟩ | ⟨hr, hv, he⟩ | ⟨hr, hv, he⟩ := edge_cases p r
  · simp [he, PortSample.accepts, hr, Registers.reset]
  · simp [he, PortSample.accepts, hr, hv]
  · simp [he, PortSample.accepts, hr, hv]

theorem accepts_iff {argw : Nat} (p : PortSample argw) : p.accepts = true ↔ p.rst = false ∧ p.cmdValid = true := by
  simp [PortSample.accepts]

/-- R21 (b) for one edge. At a reset edge nothing is asked of the registers before it. -/
theorem flagCount_edge_eq_zero_iff {argw : Nat} {p : PortSample argw} {r : Registers} {seen : Bool}
    (h : p.rst = true ∨ (flagCount r = 0 ↔ seen = false)) :
    flagCount (edge p r) = 0 ↔ (!p.rst && (p.cmdValid || seen)) = false := by
  obtain ⟨hr, he⟩ | ⟨hr, hv, he⟩ | ⟨hr, hv, he⟩ := edge_cases p r
  · simp [he, hr]
  · simp [he, hr, hv]
  · simpa [he, hr, hv] using h

/-! ## The register invariants (10_state.md R21 (a), (c), (d), (e)) -/

/-- The checksum is the negative of the sum that it completes. -/
theorem chk_eq_neg (b0 b1 b2 b3 : Byte) : chk b0 b1 b2 b3 = -(b0 + b1 + b2 + b3) :=
  (BitVec.neg_eq_not_add _).symm

/-- The five bytes of a frame sum to 0. -/
@[simp] theorem encodeFrame_sum8 (a i v : Byte) : (encodeFrame a i v).sum8 = 0 := by
  simp only [Frame.sum8, encodeFrame, chk_eq_neg, add8]
  exact BitVec.add_right_neg _

/-- Whatever code the validator gives, the only frame a relay operation answers with is one it builds. -/
theorem withRelayCode_frame {n : Int} {build : Byte → Frame} {f : Frame} (h : withRelayCode n build = .frame f) :
    ∃ code, f = build code := by
  by_cases hn : 1 ≤ n ∧ n ≤ 8
  · obtain ⟨h1, h8⟩ := hn
    rw [withRelayCode_valid h1 h8] at h
    exact ⟨_, (Response.frame.inj h).symm⟩
  · rw [withRelayCode_invalid (by omega)] at h
    cases h

/-- Every frame that a command answers with is packed by unit U3. -/
theorem responseOf_frame {i : Instr} {f : Frame} (h : responseOf i = .frame f) :
    ∃ address instruction value, f = encodeFrame address instruction value := by
  cases i with
  | setRelay | clearRelay | toggleRelay =>
    obtain ⟨code, rfl⟩ := withRelayCode_frame h
    exact ⟨_, _, _, rfl⟩
  | unhandled => cases h
  | _ => exact ⟨_, _, _, (Response.frame.inj h).symm⟩

/-- The invariants in the register set of every command's response. -/
theorem registersOk_responseOf (i : Instr) : RegistersOk (responseOf i).registers := by
  refine ⟨(flagCount_registers _).le, ?_, ?_, fun _ => flagCount_registers _⟩
  · intro hfv
    cases hresp : responseOf i with
    | frame f =>
      obtain ⟨a, ins, v, rfl⟩ := responseOf_frame hresp
      exact ⟨rfl, encodeFrame_sum8 a ins v⟩
    | error c => simp [hresp, Response.fv] at hfv
  · intro hfv
    cases hresp : responseOf i with
    | frame f => simp [hresp, Response.fv] at hfv
    | error c => rfl

theorem registersOk_reset : RegistersOk Registers.reset :=
  ⟨Nat.zero_le 1, nofun, fun _ => rfl, nofun⟩

/-- Clearing the strobe keeps the invariants. -/
theorem registersOk_idle {r : Registers} (h : RegistersOk r) : RegistersOk { r with rv := false } := by
  obtain ⟨hcount, hframe, hzero, -⟩ := h
  exact ⟨hcount, hframe, hzero, nofun⟩

/-- Every edge keeps the invariants, and a reset edge establishes them. -/
theorem registersOk_edge {argw : Nat} {p : PortSample argw} {r : Registers} (h : p.rst = true ∨ RegistersOk r) :
    RegistersOk (edge p r) := by
  obtain ⟨-, he⟩ | ⟨-, -, he⟩ | ⟨hr, -, he⟩ := edge_cases p r <;> rw [he]
  · exact registersOk_reset
  · exact response_eq p.cmd ▸ registersOk_responseOf _
  · exact registersOk_idle (h.resolve_left (by simp [hr]))

/-- Settles O39: a step that answers is an edge, and an edge keeps the invariants. -/
theorem registerInvariantKept : Obligations.RegisterInvariantKept := by
  intro s t hs hstep _
  obtain ⟨hgo, rfl⟩ := step_edge_cases hstep
  exact registersOk_edge (hgo.imp_right hs)

/-- Settles O52: the edge's own law, and a step that answers is an edge. -/
theorem noFlagInvariantKept : Obligations.NoFlagInvariantKept := by
  refine ⟨fun s t seen hs hstep => ?_, fun argw p r seen h => flagCount_edge_eq_zero_iff (.inr h)⟩
  obtain ⟨hgo, rfl⟩ := step_edge_cases hstep
  exact flagCount_edge_eq_zero_iff (hgo.imp_right hs)

/-! ## One step (10_state.md R18, R19) -/

/-- The registers of a response are the register sets that the statements write out. -/
theorem registers_cases (r : Response) :
    (∀ f, r = .frame f → r.registers = shown f) ∧ (r = .error .invalidIndex → r.registers = invalidShown) ∧
    (r = .error .unhandled → r.registers = unhandledShown) := by
  refine ⟨?_, ?_, ?_⟩
  · rintro f rfl; rfl
  · rintro rfl; rfl
  · rintro rfl; rfl

/-- A reset edge answers from every state, with every register 0. -/
theorem exists_step_reset {s : State} (hr : (nextSample s).rst = true) :
    ∃ t, step s = .next t ∧ t.regs = resetShown ∧ t.resetSeen = true :=
  ⟨_, step_reset hr, rfl, rfl⟩

/-- A command edge writes the registers of the response that EXEC gives. -/
theorem exists_step_command {s : State} (hs : s.resetSeen = true) (hr : (nextSample s).rst = false)
    (hv : (nextSample s).cmdValid = true) :
    ∃ t, step s = .next t ∧ t.regs = (Cmd.response (nextSample s).cmd).registers :=
  ⟨_, step_eq_edge (.inr hs), edge_command hr hv s.regs⟩

/-- Settles O34: one case of `step` for each of the three edges. -/
theorem edgePerformsOneStep : Obligations.EdgePerformsOneStep := by
  refine fun s => ⟨fun hr => ?_, fun hs hr hv => ?_, fun hs hr hv => ?_⟩
  · obtain ⟨t, hstep, hregs, -⟩ := exists_step_reset hr
    exact ⟨t, hstep, hregs⟩
  · obtain ⟨t, hstep, hregs⟩ := exists_step_command hs hr hv
    exact ⟨t, hstep, hregs ▸ registers_cases _⟩
  · exact ⟨_, step_idle hs hr hv, rfl, rfl, rfl, rfl, rfl⟩

/-- Settles O38: `RV` of the edge function. -/
theorem strobeMarksAcceptedCommands : Obligations.StrobeMarksAcceptedCommands := by
  intro s t hstep
  obtain ⟨-, rfl⟩ := step_edge_cases hstep
  rw [← accepts_iff, ← edge_rv (nextSample s) s.regs]

/-- Settles O46: both machines write the registers of the one response. -/
theorem responseIgnoresHistory : Obligations.ResponseIgnoresHistory := by
  intro s s' hs hs' hsame hr hv
  have hresp := response_congr hsame
  obtain ⟨hrst, hvalid, -⟩ := hsame
  obtain ⟨t, hstep, hregs⟩ := exists_step_command hs hr hv
  obtain ⟨t', hstep', hregs'⟩ := exists_step_command hs' (hrst ▸ hr) (hvalid ▸ hv)
  have heq : t.regs = t'.regs := by rw [hregs, hregs', hresp]
  exact ⟨t, t', hstep, hstep', heq, congrArg outputs heq⟩

/-- Settles O33: the command edge of `step`, with decoding of the ports exact in both directions. -/
theorem stepRunsTheDecodedCommand : Obligations.StepRunsTheDecodedCommand := by
  refine ⟨fun s hs hr hv => ⟨step_command hs hr hv, wellFormed_decodeCmd _⟩, ?_⟩
  intro s i rest hs hi hin
  have hnext : nextSample s = commandSample (encodeCmd s.config.argw i) := by rw [nextSample, hin]; rfl
  have htick : tick s = { s with inputs := rest } := by rw [tick, hin]; rfl
  have hdec : decodeCmd (nextSample s).cmd = i := by
    rw [hnext]
    exact decodeCmd_encodeCmd (Nat.lt_of_lt_of_le (by decide) s.config.argw_ge) hi
  rw [step_command hs (by rw [hnext]; rfl) (by rw [hnext]; rfl), hdec, htick]

/-! ## The reset values (10_state.md R24) -/

theorem observe_before_reset {s : State} (h : s.resetSeen = false) : observe s = .error .beforeReset := by
  simp [observe, h]

theorem observe_after_reset {s : State} (h : s.resetSeen = true) : observe s = .ok (outputs s.regs) := by
  simp [observe, h]

/-- Settles O35: the reset state and the reset step hold the same registers, all 0. -/
theorem resetValues : Obligations.ResetValues :=
  ⟨rfl, rfl, fun _ => ⟨rfl, rfl⟩, fun _ => exists_step_reset, fun _ => observe_before_reset,
    fun _ => observe_after_reset⟩

/-- Settles O40: the invariants of the reset registers, at every width. -/
theorem registerInvariantAtReset : Obligations.RegisterInvariantAtReset :=
  ⟨fun _ => registersOk_reset, registersOk_reset, fun _ => ⟨fun _ => registersOk_reset, registersOk_reset, rfl⟩⟩

/-- Settles O42: `FV` is 0 after reset, so nothing is asked of the frame registers. -/
theorem shownFrameProducibleAtReset : Obligations.ShownFrameProducibleAtReset := by
  have hfv : State.reset.regs.fv = false := rfl
  exact ⟨fun _ hshown => absurd hshown (by simp [hfv]), hfv⟩

/-! ## The outputs (10_state.md R20) -/

/-- A byte above the low byte of a word is a byte of the rest. -/
theorem extractLsb'_append_above {n : Nat} (hi : BitVec n) (lo : Byte) (k : Nat) :
    (hi ++ lo).extractLsb' (k + 8) 8 = hi.extractLsb' k 8 := by
  rw [BitVec.extractLsb'_append_eq_of_le (Nat.le_add_left 8 k), Nat.add_sub_cancel]

/-- Byte `i` stands at bits `8 * i + 7` to `8 * i` of `frame_o`: below it `i` bytes are passed over. -/
theorem extractLsb'_packed (f : Frame) : ∀ i : Fin 5, f.packed.extractLsb' (8 * i.val) 8 = f.byte i
  | 0 => BitVec.extractLsb'_append_eq_right
  | 1 => (extractLsb'_append_above _ _ 0).trans BitVec.extractLsb'_append_eq_right
  | 2 => (extractLsb'_append_above _ _ 8).trans <|
      (extractLsb'_append_above _ _ 0).trans BitVec.extractLsb'_append_eq_right
  | 3 => (extractLsb'_append_above _ _ 16).trans <| (extractLsb'_append_above _ _ 8).trans <|
      (extractLsb'_append_above _ _ 0).trans BitVec.extractLsb'_append_eq_right
  | 4 => (extractLsb'_append_above _ _ 24).trans <| (extractLsb'_append_above _ _ 16).trans <|
      (extractLsb'_append_above _ _ 8).trans BitVec.extractLsb'_append_eq_left

/-- Where at most one flag is 1, each kind code means exactly its own flag. -/
theorem rspKind_iff {r : Registers} (h : flagCount r ≤ 1) :
    (rspKind r.fv r.einv r.eunh = 1 ↔ r.fv = true) ∧ (rspKind r.fv r.einv r.eunh = 2 ↔ r.einv = true) ∧
    (rspKind r.fv r.einv r.eunh = 3 ↔ r.eunh = true) ∧ (rspKind r.fv r.einv r.eunh = 0 ↔ flagCount r = 0) := by
  obtain ⟨frame, fv, einv, eunh, rv⟩ := r
  simp only [flagCount] at h ⊢
  revert fv einv eunh
  decide

/-- Settles O37: every port is a wire of the registers, but for the bus and the kind code. -/
theorem outputsOfTheRegisters : Obligations.OutputsOfTheRegisters := fun r =>
  ⟨rfl, rfl, rfl, rfl, rfl, extractLsb'_packed r.frame, rfl, rfl, rfl, rfl, rfl, rspKind_iff⟩

/-! ## Histories: one more edge at the end of a list of samples -/

@[simp] theorem edges_append_singleton {argw : Nat} (ps : List (PortSample argw)) (p : PortSample argw)
    (r : Registers) : edges (ps ++ [p]) r = edge p (edges ps r) := by
  simp [edges]

@[simp] theorem acceptedSinceReset_append_singleton {argw : Nat} (ps : List (PortSample argw)) (p : PortSample argw) :
    acceptedSinceReset (ps ++ [p]) = (!p.rst && (p.cmdValid || acceptedSinceReset ps)) := by
  simp [acceptedSinceReset]

@[simp] theorem outputTrace_append_singleton {argw : Nat} (ps : List (PortSample argw)) (p : PortSample argw)
    (r : Registers) : outputTrace (ps ++ [p]) r = outputTrace ps r ++ [outputs (edges (ps ++ [p]) r)] := by
  induction ps generalizing r with
  | nil => rfl
  | cons q ps ih => exact congrArg (outputs (edge q r) :: ·) (ih (edge q r))

/-- Settles O44, by induction on the history from its last edge: that edge is a reset, or a reset came before it. -/
theorem noFlagMeansNoCommandSinceReset : Obligations.NoFlagMeansNoCommandSinceReset := by
  intro argw ps r hreset
  induction ps using List.reverseRecOn with
  | nil => simp at hreset
  | append_singleton ps p ih =>
    have hlast : p.rst = true ∨ ∃ q ∈ ps, q.rst = true := by
      obtain ⟨q, hq, hrst⟩ := hreset
      rcases List.mem_append.mp hq with hq | hq
      · exact .inr ⟨q, hq, hrst⟩
      · exact .inl (List.mem_singleton.mp hq ▸ hrst)
    rw [edges_append_singleton, acceptedSinceReset_append_singleton]
    exact flagCount_edge_eq_zero_iff (hlast.imp_right ih)

/-! ## The machine run over its samples (20_memory.md R35) -/

/-- A run goes on from the state that the first step answers. -/
theorem run_succ_of_step {M : Host.Core} {s t : M.State} (h : M.step s = .next t) (k : Nat) :
    M.run (k + 1) s = M.run k t := by
  rw [Host.Core.run, h]

/-- The machine run over any samples, with the fields of the state apart so that the samples can shorten. -/
theorem run_eq_edges (c : Config) (ps : List (PortSample c.argw)) (r : Registers) (seen : Bool)
    (h : (nextSample ⟨c, r, seen, ps⟩).rst = true ∨ seen = true) :
    Host.Core.run core ps.length (⟨c, r, seen, ps⟩ : State) = .next (⟨c, edges ps r, true, []⟩ : State) := by
  induction ps generalizing r seen with
  | nil =>
    obtain hr | rfl := h
    · cases hr
    · rfl
  | cons p ps ih =>
    rw [List.length_cons, run_succ_of_step (M := core) (step_eq_edge h)]
    exact ih (edge p r) true (.inr rfl)

/-- Settles O45: the run over the samples that the state lists. -/
theorem runIsRepeatedEdges : Obligations.RunIsRepeatedEdges := fun s h =>
  run_eq_edges s.config s.inputs s.regs s.resetSeen h.symm

/-! ## Counting responses (10_state.md R18, 70_reset_and_hazards.md R150) -/

/-- A cycle with `rsp_valid = 0` is not counted. -/
theorem sample_of_not_rspValid (t : Tally) {o : Outputs} (h : o.rspValid = false) : t.sample o = t := by
  simp [Tally.sample, h]

/-- Sampling the cycle after a command counts its response, by its kind. -/
theorem tallyResponses_append_singleton (rs : List Response) (r : Response) :
    tallyResponses (rs ++ [r]) = (tallyResponses rs).sample (outputs r.registers) := by
  obtain f | c := r
  · simp [tallyResponses, Tally.sample, outputs, Response.fv, Response.einv, Response.eunh]
  · cases c <;> simp [tallyResponses, Tally.sample, outputs, Response.fv, Response.einv, Response.eunh]

theorem tallyOutputs_append_singleton (os : List Outputs) (o : Outputs) :
    tallyOutputs (os ++ [o]) = (tallyOutputs os).sample o := by
  simp [tallyOutputs]

/-- An edge adds its response to those accepted, if it accepts a command. -/
theorem acceptedResponses_append_singleton {argw : Nat} (ps : List (PortSample argw)) (p : PortSample argw) :
    acceptedResponses (ps ++ [p]) = acceptedResponses ps ++ if p.accepts then [Cmd.response p.cmd] else [] := by
  cases h : p.accepts <;> simp [acceptedResponses, h]

/-- Settles O47, by induction on the history from its last edge: its cycle is counted exactly when it accepts. -/
theorem tallyCountsEveryResponse : Obligations.TallyCountsEveryResponse := by
  intro argw ps r
  induction ps using List.reverseRecOn with
  | nil => rfl
  | append_singleton ps p ih =>
    rw [outputTrace_append_singleton, tallyOutputs_append_singleton, ih, acceptedResponses_append_singleton,
      edges_append_singleton]
    cases h : p.accepts with
    | true =>
      obtain ⟨hr, hv⟩ := (accepts_iff p).mp h
      rw [edge_command hr hv, if_pos rfl, tallyResponses_append_singleton]
    | false =>
      have hrv : (outputs (edge p (edges ps r))).rspValid = false := (edge_rv p _).trans h
      rw [sample_of_not_rspValid _ hrv, if_neg Bool.false_ne_true, List.append_nil]

end Sys2Proof.Machine

/-! PROOFS. The statements of 30_encoding.md: the flat command word and its fields (R40 to R42, R49), what the codes
select (R41), the shared letter (R48), reading a frame back (R50, R54), the assembler (R51) and programs (R53). -/

namespace Sys2Proof

/-! ## The flat command word (30_encoding.md R40) -/

/-- The second argument stands at the low bits of the flat word. -/
theorem extractLsb'_flat_a1 {argw : Nat} (c : Cmd argw) : c.flat.extractLsb' 0 argw = c.a1 := by
  rw [Cmd.flat, BitVec.extractLsb'_cast]
  exact BitVec.extractLsb'_append_eq_right

/-- The first argument stands above the second. -/
theorem extractLsb'_flat_a0 {argw : Nat} (c : Cmd argw) : c.flat.extractLsb' argw argw = c.a0 := by
  rw [Cmd.flat, BitVec.extractLsb'_cast, BitVec.extractLsb'_append_eq_of_le (Nat.le_refl argw), Nat.sub_self]
  exact BitVec.extractLsb'_append_eq_right

/-- The operation code stands above both arguments. -/
theorem extractLsb'_flat_op {argw : Nat} (c : Cmd argw) : c.flat.extractLsb' (2 * argw) 4 = c.op := by
  rw [Cmd.flat, BitVec.extractLsb'_cast, BitVec.extractLsb'_append_eq_of_le (by omega),
    show 2 * argw - argw = argw by omega]
  exact BitVec.extractLsb'_append_eq_left

/-- The ports are read back whole from their flat word. -/
theorem ofFlat_flat {argw : Nat} (c : Cmd argw) : Cmd.ofFlat c.flat = c := by
  rw [Cmd.ofFlat, extractLsb'_flat_op, extractLsb'_flat_a0, extractLsb'_flat_a1]

/-- The three fields cover the flat word: no bit is dropped. -/
theorem flat_ofFlat {argw : Nat} (w : BitVec (flatBits argw)) : (Cmd.ofFlat w).flat = w := by
  apply BitVec.eq_of_getLsbD_eq
  intro i hi
  simp only [Cmd.flat, Cmd.ofFlat, BitVec.getLsbD_cast, BitVec.getLsbD_append, BitVec.getLsbD_extractLsb']
  by_cases h1 : i < argw
  · simp [h1]
  · by_cases h0 : i - argw < argw
    · have : argw + (i - argw) = i := by omega
      simp [h1, h0, this]
    · have hop : i - argw - argw < 4 := by simp only [flatBits] at hi; omega
      have : 2 * argw + (i - argw - argw) = i := by omega
      simp [h1, h0, hop, this]

/-! ## Decoding and encoding (30_encoding.md R41, R42, R49) -/

/-- Decoding keeps the code and both arguments, also those that the operation ignores. -/
theorem fields_decodeOp (op : BitVec 4) (a0 a1 : Int) :
    (decodeOp op a0 a1).opcode = op ∧ (decodeOp op a0 a1).arg0 = a0 ∧ (decodeOp op a0 a1).arg1 = a1 := by
  rcases Machine.opcode_cases op with h | h | h | h | h | h | h | h | h
  case inr.inr.inr.inr.inr.inr.inr.inr => rw [Machine.decodeOp_unhandled h]; exact ⟨rfl, rfl, rfl⟩
  all_goals subst h; exact ⟨rfl, rfl, rfl⟩

/-- The command on the ports is presented by those ports. -/
theorem encodeCmd_decodeCmd {argw : Nat} (c : Cmd argw) : encodeCmd argw (decodeCmd c) = c := by
  obtain ⟨hop, h0, h1⟩ := fields_decodeOp c.op (sint c.a0) (sint c.a1)
  simp only [encodeCmd, decodeCmd, hop, h0, h1, ofInt_sint]

/-- Settles O1: the flat word gives the ports back, and the ports the command. -/
theorem decodeOfEncodedCommand : Obligations.DecodeOfEncodedCommand := by
  intro argw i hw hi
  rw [decodeWord, encodeWord, ofFlat_flat, decodeCmd_encodeCmd (Nat.lt_of_lt_of_le (by decide) hw) hi]

/-- Settles O2: the command of any ports is well formed, and encoding passes through the same ports. -/
theorem encodeOfDecodedWord : Obligations.EncodeOfDecodedWord := by
  intro argw w _
  refine ⟨wellFormed_decodeCmd _, ?_⟩
  rw [decodeWord, encodeWord, encodeCmd_decodeCmd, flat_ofFlat]

end Sys2Proof

namespace Sys2Proof.Machine

open Sys2Proof.Stated

/-- Settles O4: the fields of the flat word, and the bytes of a packed frame at their places. -/
theorem formatsOfCommandAndFrame : Obligations.FormatsOfCommandAndFrame := by
  refine ⟨fun argw c _ => ?_, fun address instruction value => ?_⟩
  · exact ⟨extractLsb'_flat_op c, extractLsb'_flat_a0 c, extractLsb'_flat_a1 c, ofFlat_flat c⟩
  · have hbyte := extractLsb'_packed (encodeFrame address instruction value)
    exact ⟨hbyte 0, hbyte 1, hbyte 2, hbyte 3, hbyte 4⟩

/-! ## Operation codes and instruction bytes (30_encoding.md R41, R46) -/

/-- The instruction byte of a frame is the one that the table lists for the code of its command (R41). -/
theorem instructionByte_of_responseOf_frame {i : Instr} {f : Frame} (h : responseOf i = .frame f) :
    [0x42#8, 0x53#8, 0x43#8, 0x54#8, 0x45#8, 0x44#8, 0x54#8, 0x41#8][i.opcode.toNat]? = some f.b2 := by
  cases i with
  | setRelay | clearRelay | toggleRelay =>
    obtain ⟨code, rfl⟩ := withRelayCode_frame h
    rfl
  | unhandled => cases h
  | _ =>
    obtain rfl := Response.frame.inj h
    rfl

/-- With `FV` 1 the response is the frame that the registers hold. -/
theorem response_eq_frame_of_fv {r : Response} (h : r.registers.fv = true) : r = .frame r.registers.frame := by
  cases r with
  | frame f => rfl
  | error c => cases h

/-- Settles O5: the nine cases of a code, and the instruction byte of any frame. -/
theorem operationCodesSelect : Obligations.OperationCodesSelect := by
  refine fun a0 a1 => ⟨rfl, rfl, rfl, rfl, rfl, rfl, rfl, rfl, fun op h => decodeOp_unhandled h a0 a1, ?_, ?_⟩
  · intro op s t hexec hfv
    obtain rfl := exec_cases hexec
    obtain ⟨hop, -, -⟩ := fields_decodeOp op a0 a1
    have hbyte := instructionByte_of_responseOf_frame (response_eq_frame_of_fv hfv)
    rwa [hop] at hbyte
  · intro op s t h hexec
    obtain rfl := exec_cases hexec
    rw [decodeOp_unhandled h]
    rfl

/-! ## The value byte: raw index and relay code (30_encoding.md R47, R48) -/

/-- The relay code is the low byte of `0x30 + n`. -/
theorem relayCode_eq_trunc8 (n : Int) : relayCode n = trunc8 (0x30 + n) :=
  (BitVec.ofInt_add 0x30 n).symm

/-- An integer of the range of a byte is that byte's value. -/
theorem toNat_trunc8_of_byte {n : Int} (h0 : 0 ≤ n) (h : n < 256) : ((trunc8 n).toNat : Int) = n := by
  rw [toNat_trunc8_int, Int.emod_eq_of_lt h0 h]

/-- SET_RELAY on a relay index. -/
theorem responseOf_setRelay {i : Int} (h1 : 1 ≤ i) (h8 : i ≤ 8) (a0 : Int) :
    responseOf (.setRelay a0 i) = .frame (encodeFrame (trunc8 a0) letterS (trunc8 i)) :=
  withRelayCode_valid h1 h8 _

/-- CLEAR_RELAY on a relay index. -/
theorem responseOf_clearRelay {i : Int} (h1 : 1 ≤ i) (h8 : i ≤ 8) (a0 : Int) :
    responseOf (.clearRelay a0 i) = .frame (encodeFrame (trunc8 a0) letterC (trunc8 (0x30 + i))) :=
  relayCode_eq_trunc8 i ▸ withRelayCode_valid h1 h8 _

/-- TOGGLE_RELAY on a relay index. -/
theorem responseOf_toggleRelay {i : Int} (h1 : 1 ≤ i) (h8 : i ≤ 8) (a0 : Int) :
    responseOf (.toggleRelay a0 i) = .frame (encodeFrame (trunc8 a0) letterT (trunc8 (0x30 + i))) :=
  relayCode_eq_trunc8 i ▸ withRelayCode_valid h1 h8 _

/-- A command with a frame as its response shows the value byte of that frame. -/
theorem exists_exec_value {i : Instr} {a ins : Byte} {n : Int}
    (h : responseOf i = .frame (encodeFrame a ins (trunc8 n))) (h0 : 0 ≤ n) (hn : n < 256) (s : State) :
    ∃ t, exec i s = .next t ∧ (t.regs.frame.b3.toNat : Int) = n :=
  ⟨_, exec_eq i s, by rw [h]; exact toNat_trunc8_of_byte h0 hn⟩

/-- Settles O7: the frames of the three relay operations on a relay index. -/
theorem sharedLetterAndRawIndex : Obligations.SharedLetterAndRawIndex := by
  intro a0 i s ⟨h1, h8⟩
  refine ⟨⟨_, exec_eq _ s, ?_⟩,
    exists_exec_value (responseOf_setRelay h1 h8 a0) (by omega) (by omega) s,
    exists_exec_value (responseOf_clearRelay h1 h8 a0) (by omega) (by omega) s,
    exists_exec_value (responseOf_toggleRelay h1 h8 a0) (by omega) (by omega) s, exec_eq _ s, exec_eq _ s⟩
  rw [exec_eq, responseOf_toggleRelay h1 h8]
  rfl

/-! ## Reading a frame back (30_encoding.md R54) -/

/-- The relay index of a reading, where there is one, is from 1 to 8. -/
def FrameReading.indexOk : FrameReading → Prop
  | .setRelay _ n | .clearRelay _ n | .toggleRelay _ n => 1 ≤ n ∧ n ≤ 8
  | _ => True

/-- The frame that a reading stands for. -/
def FrameReading.frame : FrameReading → Frame
  | .set a v => encodeFrame a letterB v
  | .setRelay a n => encodeFrame a letterS (BitVec.ofNat 8 n)
  | .clearRelay a n => encodeFrame a letterC (BitVec.ofNat 8 (0x30 + n))
  | .toggleRelay a n => encodeFrame a letterT (BitVec.ofNat 8 (0x30 + n))
  | .emergencyStop => encodeFrame 0 letterE 0
  | .displayAddress => encodeFrame 0 letterD 0
  | .setAddress a v => encodeFrame a letterT v
  | .resetAddress v => encodeFrame 0 letterA v

theorem isRawIndex_iff (v : Byte) : isRawIndex v = true ↔ 1 ≤ v.toNat ∧ v.toNat ≤ 8 := by
  simp [isRawIndex]

theorem isRelayCode_iff (v : Byte) : isRelayCode v = true ↔ 0x31 ≤ v.toNat ∧ v.toNat ≤ 0x38 := by
  simp [isRelayCode]

/-- A relay code carries a relay index, and is the code of that index. -/
theorem index_of_relayCode {v : Byte} (h : isRelayCode v = true) :
    (1 ≤ v.toNat - 0x30 ∧ v.toNat - 0x30 ≤ 8) ∧ BitVec.ofNat 8 (0x30 + (v.toNat - 0x30)) = v := by
  obtain ⟨hlo, hhi⟩ := (isRelayCode_iff v).mp h
  refine ⟨by omega, ?_⟩
  rw [Nat.add_sub_cancel' (by omega), BitVec.ofNat_toNat, BitVec.setWidth_eq]

/-- Every reading of three bytes has its relay index in range and a frame with these bytes. -/
theorem frame_of_mem_bodyReadings {r : FrameReading} {a ins v : Byte} (h : r ∈ bodyReadings a ins v) :
    r.indexOk ∧ r.frame = encodeFrame a ins v := by
  unfold bodyReadings at h
  split_ifs at h with hB hS hraw hC hcode hT hcode hE hzero hD hzero hA ha
  · obtain rfl := List.mem_singleton.mp h
    exact ⟨trivial, hB ▸ rfl⟩
  · obtain rfl := List.mem_singleton.mp h
    exact ⟨(isRawIndex_iff v).mp hraw, by simp [FrameReading.frame, hS, letterS]⟩
  · cases h
  · obtain rfl := List.mem_singleton.mp h
    obtain ⟨hidx, hv⟩ := index_of_relayCode hcode
    exact ⟨hidx, by rw [FrameReading.frame, hv, hC, letterC]⟩
  · cases h
  · obtain rfl | h := List.mem_cons.mp h
    · exact ⟨trivial, hT ▸ rfl⟩
    · obtain rfl := List.mem_singleton.mp h
      obtain ⟨hidx, hv⟩ := index_of_relayCode hcode
      exact ⟨hidx, by rw [FrameReading.frame, hv, hT, letterT]⟩
  · obtain rfl := List.mem_singleton.mp h
    exact ⟨trivial, hT ▸ rfl⟩
  · obtain rfl := List.mem_singleton.mp h
    obtain ⟨rfl, rfl⟩ := hzero
    exact ⟨trivial, hE ▸ rfl⟩
  · cases h
  · obtain rfl := List.mem_singleton.mp h
    obtain ⟨rfl, rfl⟩ := hzero
    exact ⟨trivial, hD ▸ rfl⟩
  · cases h
  · obtain rfl := List.mem_singleton.mp h
    exact ⟨trivial, ha ▸ hA ▸ rfl⟩
  · cases h
  · cases h

/-- A relay index as a byte is a raw index, which reads back as itself. -/
theorem rawIndex_ofNat {n : Nat} (h1 : 1 ≤ n) (h8 : n ≤ 8) :
    isRawIndex (BitVec.ofNat 8 n) = true ∧ (BitVec.ofNat 8 n).toNat = n := by
  have hn : (BitVec.ofNat 8 n).toNat = n := Nat.mod_eq_of_lt (by omega)
  exact ⟨(isRawIndex_iff _).mpr (by omega), hn⟩

/-- The code of a relay index is a relay code, which reads back as that index. -/
theorem relayCode_ofNat {n : Nat} (h1 : 1 ≤ n) (h8 : n ≤ 8) :
    isRelayCode (BitVec.ofNat 8 (0x30 + n)) = true ∧ (BitVec.ofNat 8 (0x30 + n)).toNat - 0x30 = n := by
  have hn : (BitVec.ofNat 8 (0x30 + n)).toNat = 0x30 + n := Nat.mod_eq_of_lt (by omega)
  exact ⟨(isRelayCode_iff _).mpr (by omega), by omega⟩

/-- A reading with a relay index in range is among those of its own frame. -/
theorem mem_frameReadings_frame {r : FrameReading} (h : r.indexOk) : r ∈ frameReadings r.frame := by
  cases r with
  | setRelay a n =>
    obtain ⟨h1, h8⟩ := h
    obtain ⟨hraw, hn⟩ := rawIndex_ofNat h1 h8
    simp [frameReadings, FrameReading.frame, bodyReadings, letterS, hraw, hn, -BitVec.toNat_ofNat]
  | clearRelay a n | toggleRelay a n =>
    obtain ⟨h1, h8⟩ := h
    obtain ⟨hcode, hn⟩ := relayCode_ofNat h1 h8
    simp [frameReadings, FrameReading.frame, bodyReadings, letterC, letterT, hcode, hn, -BitVec.toNat_ofNat]
  | _ => simp [frameReadings, FrameReading.frame, bodyReadings, letterB, letterE, letterD, letterA, letterT]

/-- The readings of five bytes (R54) are the readings of which they are the frame. -/
theorem mem_frameReadings_iff (r : FrameReading) (f : Frame) : r ∈ frameReadings f ↔ r.indexOk ∧ r.frame = f := by
  constructor
  · intro h
    unfold frameReadings at h
    split at h
    case isTrue henc =>
      rw [show f = encodeFrame f.b1 f.b2 f.b3 from eq_of_beq henc]
      exact frame_of_mem_bodyReadings h
    case isFalse => cases h
  · rintro ⟨h, rfl⟩
    exact mem_frameReadings_frame h

/-- An integer that is not negative truncates as a natural number. -/
theorem trunc8_eq_ofNat {n : Int} (h : 0 ≤ n) : trunc8 n = BitVec.ofNat 8 n.toNat := by
  obtain ⟨k, rfl⟩ := Int.eq_ofNat_of_zero_le h
  exact BitVec.ofInt_natCast 8 k

/-- A relay operation answers with a frame exactly for the indices 1 to 8, and then with the one that it builds from
the relay code. -/
theorem withRelayCode_eq_frame_iff {n : Int} {build : Byte → Frame} {f : Frame} :
    withRelayCode n build = .frame f ↔
      (1 ≤ n.toNat ∧ n.toNat ≤ 8) ∧ build (BitVec.ofNat 8 (0x30 + n.toNat)) = f := by
  by_cases hn : 1 ≤ n ∧ n ≤ 8
  · obtain ⟨h1, h8⟩ := hn
    have hcode : relayCode n = BitVec.ofNat 8 (0x30 + n.toNat) := by
      rw [relayCode_eq_trunc8, trunc8_eq_ofNat (by omega), Int.toNat_add (by decide) (by omega)]
      rfl
    have hidx : 1 ≤ n.toNat ∧ n.toNat ≤ 8 := by omega
    simp only [withRelayCode_valid h1 h8, hcode, Response.frame.injEq, hidx, true_and, and_self]
  · have hidx : ¬(1 ≤ n.toNat ∧ n.toNat ≤ 8) := by omega
    simp only [withRelayCode_invalid (by omega : n < 1 ∨ 8 < n), hidx, false_and, reduceCtorEq]

/-- A command answers with the frame `f` exactly when what it looks like in a frame has its index in range and `f` as
its frame. -/
theorem responseOf_eq_frame_iff (i : Instr) (f : Frame) :
    responseOf i = .frame f ↔ ∃ r, readingOf i = some r ∧ r.indexOk ∧ r.frame = f := by
  cases i with
  | setRelay a0 a1 =>
    simp only [responseOf, opSetRelay, withRelayCode_eq_frame_iff, readingOf, Option.some.injEq, exists_eq_left',
      FrameReading.indexOk, FrameReading.frame]
    refine and_congr_right fun ⟨h1, _⟩ => ?_
    rw [trunc8_eq_ofNat (by omega : 0 ≤ a1)]
  | clearRelay a0 a1 | toggleRelay a0 a1 =>
    simp only [responseOf, opClearRelay, opToggleRelay, withRelayCode_eq_frame_iff, readingOf, Option.some.injEq,
      exists_eq_left', FrameReading.indexOk, FrameReading.frame]
  | unhandled n a0 a1 => simp [responseOf, opUnhandled, readingOf]
  | _ =>
    simp [responseOf, opSet, opSetAddress, opResetAddress, opEmergencyStop, opDisplayAddress, readingOf,
      FrameReading.indexOk, FrameReading.frame]

/-- A command ends with the frame `f` shown exactly when `f` is its response. -/
theorem exec_eq_shown_iff (i : Instr) (f : Frame) (s : State) :
    exec i s = .next { s with regs := shown f } ↔ responseOf i = .frame f := by
  rw [exec_eq]
  constructor
  · intro h
    have hregs : (responseOf i).registers = shown f := congrArg State.regs (Host.Outcome.next.inj h)
    rw [response_eq_frame_of_fv (congrArg Registers.fv hregs), hregs]
    rfl
  · intro h
    rw [h]
    rfl

/-- The commands that answer with the frame `f` are those that `f` reads back to (R54). -/
theorem responseOf_eq_frame_iff_reading (i : Instr) (f : Frame) :
    responseOf i = .frame f ↔ ∃ r ∈ frameReadings f, readingOf i = some r := by
  simp only [responseOf_eq_frame_iff, mem_frameReadings_iff, and_comm]

/-- Settles O9: a frame is shown exactly when it is the response, and a response's frame reads back to its command. -/
theorem frameReadsBackToItsCommands : Obligations.FrameReadsBackToItsCommands :=
  fun i f s => (exec_eq_shown_iff i f s).trans (responseOf_eq_frame_iff_reading i f)

/-! ## Which frames are shown (30_encoding.md R50) -/

/-- With `FV` 1 the registers of a command's response hold a frame that reads back, to that command among others. -/
theorem frameReadings_ne_nil_of_responseOf {i : Instr} (h : (responseOf i).registers.fv = true) :
    frameReadings (responseOf i).registers.frame ≠ [] := by
  obtain ⟨r, hr, -⟩ := (responseOf_eq_frame_iff_reading i _).mp (response_eq_frame_of_fv h)
  exact List.ne_nil_of_mem hr

/-- Settles O41: a command edge shows the frame of a command, an idle edge the frame shown before. -/
theorem shownFrameStaysProducible : Obligations.ShownFrameStaysProducible := by
  intro s t hs hstep _ hfv
  obtain ⟨-, rfl⟩ | ⟨-, -, -, rfl⟩ | ⟨hseen, -, -, rfl⟩ := step_cases hstep
  · cases hfv
  · exact frameReadings_ne_nil_of_responseOf hfv
  · exact hs hseen hfv

/-- Settles O43: the frame of each of the eight readings. -/
theorem framesNeverProduced : Obligations.FramesNeverProduced := by
  intro f hf
  obtain ⟨r, hr⟩ := List.exists_mem_of_ne_nil _ hf
  obtain ⟨hidx, rfl⟩ := (mem_frameReadings_iff r f).mp hr
  cases r with
  | setRelay a n =>
    obtain ⟨h1, h8⟩ := hidx
    obtain ⟨-, hn⟩ := rawIndex_ofNat h1 h8
    simp [FrameReading.frame, letterS, marker, hn, h1, h8, -BitVec.toNat_ofNat]
  | clearRelay a n =>
    obtain ⟨h1, h8⟩ := hidx
    obtain ⟨hcode, -⟩ := relayCode_ofNat h1 h8
    have := (isRelayCode_iff _).mp hcode
    simp [FrameReading.frame, letterC, marker, this, -BitVec.toNat_ofNat]
  | _ => simp [FrameReading.frame, letterB, letterT, letterE, letterD, letterA, marker]

/-! ## Programs (30_encoding.md R53) -/

/-- The outputs in the cycles with `rsp_valid = 1` are those of the accepted commands' responses, in order, whatever is
driven on the ports and whatever the registers held. -/
theorem filter_outputTrace {argw : Nat} (ps : List (PortSample argw)) (r : Registers) :
    (outputTrace ps r).filter Outputs.rspValid = (acceptedResponses ps).map Response.outputs := by
  induction ps using List.reverseRecOn with
  | nil => rfl
  | append_singleton ps p ih =>
    rw [outputTrace_append_singleton, List.filter_append, ih, acceptedResponses_append_singleton, List.map_append,
      edges_append_singleton]
    have hrv : (outputs (edge p (edges ps r))).rspValid = p.accepts := edge_rv p _
    cases h : p.accepts with
    | true =>
      obtain ⟨hr, hv⟩ := (accepts_iff p).mp h
      rw [edge_command hr hv] at hrv ⊢
      simp [hrv, h, Response.outputs]
    | false => simp [hrv, h]

theorem acceptedResponses_append {argw : Nat} (ps qs : List (PortSample argw)) :
    acceptedResponses (ps ++ qs) = acceptedResponses ps ++ acceptedResponses qs := by
  simp [acceptedResponses]

/-- However many idle edges come before it, the command alone is accepted. -/
theorem acceptedResponses_commandAfter {argw : Nat} (gap : Nat) (c : Cmd argw) :
    acceptedResponses (commandAfter gap c) = [Cmd.response c] := by
  have hidle : ¬ (idleSample argw).accepts = true := by simp [idleSample, PortSample.accepts]
  rw [commandAfter, acceptedResponses_append_singleton, acceptedResponses, List.filter_replicate_of_neg hidle]
  rfl

/-- A program accepts its commands and nothing else; its reset edge accepts none. -/
theorem acceptedResponses_programSamples {argw : Nat} (cs : List (Nat × Cmd argw)) :
    acceptedResponses (programSamples cs) = programResponses cs := by
  change acceptedResponses (commandSamples cs) = programResponses cs
  induction cs with
  | nil => rfl
  | cons gc cs ih =>
    rw [commandSamples, List.flatMap_cons, acceptedResponses_append, acceptedResponses_commandAfter]
    exact congrArg (Cmd.response gc.2 :: ·) ih

/-- The command at the end of a program determines the registers. -/
theorem edges_programSamples_append_singleton {argw : Nat} (cs : List (Nat × Cmd argw)) (gap : Nat) (c : Cmd argw)
    (r : Registers) : edges (programSamples (cs ++ [(gap, c)])) r = (Cmd.response c).registers := by
  have hlast : programSamples (cs ++ [(gap, c)]) =
      (programSamples cs ++ List.replicate gap (idleSample argw)) ++ [commandSample c] := by
    simp [programSamples, commandSamples, commandAfter]
  rw [hlast, edges_append_singleton]
  exact edge_command rfl rfl _

/-- Settles O48: the strobe picks out the accepted commands, and the last of them leaves the registers. -/
theorem responsesAreTakenSeparately : Obligations.ResponsesAreTakenSeparately := by
  intro argw cs r
  refine ⟨by rw [filter_outputTrace, acceptedResponses_programSamples], ?_⟩
  induction cs using List.reverseRecOn with
  | nil => rfl
  | append_singleton cs gc =>
    rw [edges_programSamples_append_singleton]
    simp [programResponses]

/-! ## A placed word (30_encoding.md R53; log 4) -/

/-- What the decoder reads from a table word is the command on some ports of the default width. -/
theorem exists_cmd_of_decodeTableWord {nbits w : Nat} {i : Instr} (h : decodeTableWord nbits w = some i) :
    ∃ c : Cmd Config.default.argw, decodeCmd c = i := by
  unfold decodeTableWord decodeBytes at h
  cases himg : decodeImage Config.default.argw (tableBytes nbits w) with
  | error e => simp [himg] at h
  | ok image =>
    obtain ⟨c, rest⟩ := image
    rw [himg] at h
    exact ⟨c, Option.some.inj h⟩

/-- A word that is placed on a block whose width carries its command is presented as that command. -/
theorem fetchSample_of_wellFormed {argw nbits w : Nat} {i : Instr} (h : decodeTableWord nbits w = some i)
    (hi : i.wellFormed argw = true) : fetchSample argw nbits w = ⟨false, true, encodeCmd argw i⟩ := by
  simp [fetchSample, h, hi, commandSample]

/-- Settles O54: the placed sample presents the command, and a presented command is the one that runs. -/
theorem placedWordRuns : Obligations.PlacedWordRuns := by
  intro nbits w i h
  refine ⟨?_, fun s hi => ?_⟩
  · obtain ⟨c, rfl⟩ := exists_cmd_of_decodeTableWord h
    exact wellFormed_decodeCmd c
  · obtain ⟨-, hpresented⟩ := stepRunsTheDecodedCommand
    exact hpresented (s.withFetchWord nbits w) i s.inputs.tail rfl hi
      (congrArg (· :: s.inputs.tail) (fetchSample_of_wellFormed h hi))

/-! ## The assembler (30_encoding.md R51) -/

/-- A line with a good code and arguments that fit is assembled to the flat word of its command. -/
theorem word_of_wellFormed {argw : Nat} {l : AsmLine} (hcode : l.codeOk = true)
    (h : l.instr.wellFormed argw = true) : l.word argw = .ok (encodeWord argw l.instr) := by
  simp [AsmLine.word, AsmLine.assemble, hcode, h]

/-- A line with a good code and an argument that does not fit is rejected. -/
theorem word_of_not_wellFormed {argw : Nat} {l : AsmLine} (hcode : l.codeOk = true)
    (h : l.instr.wellFormed argw = false) : l.word argw = .error .argumentOutOfRange := by
  simp [AsmLine.word, AsmLine.assemble, hcode, h]

/-- A line with a bad code is rejected. -/
theorem word_of_not_codeOk {argw : Nat} {l : AsmLine} (hcode : l.codeOk = false) :
    l.word argw = .error .badCode := by
  simp [AsmLine.word, AsmLine.assemble, hcode]

theorem codeOk_unhandled_iff (n : Int) : (AsmLine.unhandled n).codeOk = true ↔ 8 ≤ n ∧ n ≤ 15 := by
  simp [AsmLine.codeOk]

/-- An omitted argument fits every width. -/
theorem argInRange_zero {argw : Nat} : argInRange argw 0 = true := by
  simp [argInRange]

/-- A code from 8 to 15 has its top bit 1. -/
theorem getLsbD_ofInt_of_code {n : Int} (h8 : 8 ≤ n) (h15 : n ≤ 15) : (BitVec.ofInt 4 n).getLsbD 3 = true := by
  interval_cases n <;> rfl

/-- Settles O8: each form is assembled to its flat word or rejected, by its code and the range of its arguments. -/
theorem assemblerWords : Obligations.AssemblerWords := by
  refine ⟨fun argw a0 a1 _ h0 h1 => ?_, fun argw n _ => ⟨fun hn => ?_, fun hn => ?_⟩, fun argw a0 a1 _ hout => ?_,
    fun argw a0 _ hout => ?_, by decide, by decide, by decide, by decide, by decide, by decide⟩
  · have htwo : (argInRange argw a0 && argInRange argw a1) = true := Bool.and_eq_true_iff.mpr ⟨h0, h1⟩
    have hone : (argInRange argw a0 && argInRange argw 0) = true := Bool.and_eq_true_iff.mpr ⟨h0, argInRange_zero⟩
    have hnone : (argInRange argw 0 && argInRange argw 0) = true :=
      Bool.and_eq_true_iff.mpr ⟨argInRange_zero, argInRange_zero⟩
    exact ⟨word_of_wellFormed rfl htwo, word_of_wellFormed rfl htwo, word_of_wellFormed rfl htwo,
      word_of_wellFormed rfl htwo, word_of_wellFormed rfl hnone, word_of_wellFormed rfl hnone,
      word_of_wellFormed rfl htwo, word_of_wellFormed rfl hone⟩
  · refine word_of_wellFormed ((codeOk_unhandled_iff n).mpr hn) ?_
    obtain ⟨h8, h15⟩ := hn
    simp [AsmLine.instr, Instr.wellFormed, getLsbD_ofInt_of_code h8 h15, argInRange_zero]
  · exact word_of_not_codeOk (Bool.eq_false_iff.mpr fun h => by have := (codeOk_unhandled_iff n).mp h; omega)
  · have hargs : (argInRange argw a0 && argInRange argw a1) = false := Bool.and_eq_false_iff.mpr hout
    exact ⟨word_of_not_wellFormed rfl hargs, word_of_not_wellFormed rfl hargs, word_of_not_wellFormed rfl hargs,
      word_of_not_wellFormed rfl hargs, word_of_not_wellFormed rfl hargs⟩
  · exact word_of_not_wellFormed rfl (Bool.and_eq_false_iff.mpr (.inl hout))

end Sys2Proof.Machine

/-! PROOFS. The statements of 40_checksum.md: what unit U1 computes in plain arithmetic (R60), that its result is the
only completing byte (R61) and that the order of the four bytes does not matter (R62). -/

namespace Sys2Proof.Machine

open Sys2Proof.Stated

/-! ## The checksum in natural numbers (40_checksum.md R60, R61) -/

/-- The three 8-bit adders of unit U1 drop their carries: the sum is reduced once. -/
theorem toNat_add8_add8_add8 (b0 b1 b2 b3 : Byte) :
    (add8 (add8 (add8 b0 b1) b2) b3).toNat = sum4 b0 b1 b2 b3 % 256 := by
  simp only [toNat_add8, Nat.mod_add_mod, sum4]

theorem toNat_chk (b0 b1 b2 b3 : Byte) :
    (chk b0 b1 b2 b3).toNat = ((255 - sum4 b0 b1 b2 b3 % 256) + 1) % 256 := by
  rw [chk, toNat_add8, toNat_not8, toNat_add8_add8_add8]
  rfl

/-- A byte completes the sum to 0 modulo 256 exactly when it is the checksum. -/
theorem eq_chk_iff (b0 b1 b2 b3 c : Byte) : c = chk b0 b1 b2 b3 ↔ (sum4 b0 b1 b2 b3 + c.toNat) % 256 = 0 := by
  have hc : c.toNat < 256 := c.isLt
  rw [← BitVec.toNat_inj, toNat_chk]
  omega

/-- Settles O10: the sum is reduced, complemented and incremented, and the checksum completes it. -/
theorem checksumComplementsTheSum : Obligations.ChecksumComplementsTheSum :=
  ⟨fun b0 b1 b2 b3 => ⟨toNat_chk b0 b1 b2 b3, (eq_chk_iff b0 b1 b2 b3 _).mp rfl⟩, by decide⟩

/-! ## The order of the operands (40_checksum.md R62) -/

/-- The checksum depends on the sum of the four bytes only. -/
theorem chk_eq_of_sum4_eq {b0 b1 b2 b3 c0 c1 c2 c3 : Byte} (h : sum4 c0 c1 c2 c3 = sum4 b0 b1 b2 b3) :
    chk c0 c1 c2 c3 = chk b0 b1 b2 b3 :=
  BitVec.eq_of_toNat_eq (by rw [toNat_chk, toNat_chk, h])

theorem sum_map_toNat_eq_sum4 (b0 b1 b2 b3 : Byte) : ([b0, b1, b2, b3].map BitVec.toNat).sum = sum4 b0 b1 b2 b3 := by
  simp [sum4, Nat.add_assoc]

theorem sum4_eq_of_perm {b0 b1 b2 b3 c0 c1 c2 c3 : Byte} (h : [c0, c1, c2, c3].Perm [b0, b1, b2, b3]) :
    sum4 c0 c1 c2 c3 = sum4 b0 b1 b2 b3 := by
  have hsum := (h.map BitVec.toNat).sum_eq
  rwa [sum_map_toNat_eq_sum4, sum_map_toNat_eq_sum4] at hsum

/-- Settles O11: a completing byte is the checksum, its closed form is the negative of the sum, and a permutation keeps
the sum on which alone it depends. -/
theorem checksumUniqueAndSymmetric : Obligations.ChecksumUniqueAndSymmetric := by
  intro b0 b1 b2 b3
  refine ⟨fun c hc => (eq_chk_iff b0 b1 b2 b3 c).mpr hc, ?_, fun c0 c1 c2 c3 h => chk_eq_of_sum4_eq (sum4_eq_of_perm h)⟩
  rw [toNat_chk]
  omega

end Sys2Proof.Machine

/-! PROOFS. The statement of 41_relay_validator.md: the comparator of unit U2 and its three signals (R70). -/

namespace Sys2Proof.Machine

/-- No carry is dropped in the code of a relay index (R70). -/
theorem toNat_relayCode {n : Int} (h1 : 1 ≤ n) (h8 : n ≤ 8) : ((relayCode n).toNat : Int) = 0x30 + n := by
  rw [relayCode_eq_trunc8]
  exact toNat_trunc8_of_byte (by omega) (by omega)

/-- Settles O12: the two ranges are the two branches of the comparator, and each fixes the three signals. -/
theorem validatorAcceptsOneToEight : Obligations.ValidatorAcceptsOneToEight := by
  refine ⟨fun n h1 h8 => ?valid, fun n hout => ?invalid, by decide⟩
  case valid =>
    rw [validate_valid h1 h8]
    exact ⟨relayCode n, rfl, toNat_relayCode h1 h8, rfl, rfl, rfl⟩
  case invalid =>
    rw [validate_invalid hout]
    exact ⟨rfl, rfl, rfl, rfl⟩

end Sys2Proof.Machine

/-! PROOFS. The statements of 42_frame_encoder.md: the pack of unit U3 (R80) and the laws of a frame (R82). -/

namespace Sys2Proof.Machine

open Sys2Proof.Stated

/-- Settles O13: the pack is wiring plus unit U1. -/
theorem encoderPacksFiveBytes : Obligations.EncoderPacksFiveBytes :=
  ⟨fun _ _ _ => ⟨rfl, rfl, rfl, rfl, rfl⟩, by decide, by decide⟩

/-! ## The laws of a frame (42_frame_encoder.md R82) -/

/-- R82 (f): the three inputs stand in the frame unchanged. -/
theorem encodeFrame_inj {a i v a' i' v' : Byte} :
    encodeFrame a i v = encodeFrame a' i' v' ↔ a = a' ∧ i = i' ∧ v = v' := by
  constructor
  · intro h
    exact ⟨congrArg Frame.b1 h, congrArg Frame.b2 h, congrArg Frame.b3 h⟩
  · rintro ⟨rfl, rfl, rfl⟩
    rfl

/-- R82 (g): the checksum byte in plain arithmetic, 243 being the negative of the marker modulo 256. -/
theorem toNat_encodeFrame_b4 (a i v : Byte) :
    ((encodeFrame a i v).b4.toNat : Int) = (243 - (a.toNat : Int) - (i.toNat : Int) - (v.toNat : Int)) % 256 := by
  have hmarker : marker.toNat = 13 := rfl
  rw [encodeFrame_b4, toNat_chk, sum4, hmarker]
  omega

theorem toNat_sum8 (f : Frame) : f.sum8.toNat = (sum4 f.b0 f.b1 f.b2 f.b3 + f.b4.toNat) % 256 := by
  rw [Frame.sum8, toNat_add8, toNat_add8_add8_add8, Nat.mod_add_mod]

/-- Five bytes sum to 0 exactly when the last is the checksum of the other four. -/
theorem sum8_eq_zero_iff (f : Frame) : f.sum8 = 0 ↔ f.b4 = chk f.b0 f.b1 f.b2 f.b3 := by
  rw [eq_chk_iff, ← toNat_sum8, ← BitVec.toNat_inj]
  rfl

/-- The converse of R82 (b) to (d): the marker and the sum leave nothing of a frame open but its middle bytes. -/
theorem eq_encodeFrame_of_sum8 {f : Frame} (hmarker : f.b0 = marker) (hsum : f.sum8 = 0) :
    f = encodeFrame f.b1 f.b2 f.b3 := by
  obtain ⟨b0, b1, b2, b3, b4⟩ := f
  obtain rfl : b0 = marker := hmarker
  obtain rfl : b4 = chk marker b1 b2 b3 := (sum8_eq_zero_iff _).mp hsum
  rfl

/-- Settles O14: the sum, the closed form, injectivity, and the frame that the marker and the sum determine. -/
theorem encoderLaws : Obligations.EncoderLaws := fun a i v =>
  ⟨encodeFrame_sum8 a i v, toNat_encodeFrame_b4 a i v, fun _ _ _ => encodeFrame_inj.mp,
    fun _ hmarker hsum => eq_encodeFrame_of_sum8 hmarker hsum⟩

end Sys2Proof.Machine

/-! PROOFS. The statements of 43_operations.md: the operations one by one (R91 to R99), what of the arguments matters
(R101), that every command completes (R90), and that the bit-level nets compute the same responses (R100). -/

namespace Sys2Proof.Machine

open Sys2Proof.Stated

/-! ## From a response to the next state (43_operations.md R90) -/

/-- The pack of three low bytes is the frame that the statements give in integers: the checksum is the low byte of the
negated integer sum. -/
theorem encodeFrame_trunc8 (a i v : Int) : encodeFrame (trunc8 a) (trunc8 i) (trunc8 v) = frameOf a i v := by
  have hchk : chk marker (trunc8 a) (trunc8 i) (trunc8 v) = trunc8 (-(13 + a + i + v)) := by
    simp only [chk_eq_neg, trunc8, BitVec.ofInt_neg, BitVec.ofInt_add]
    rfl
  rw [encodeFrame, hchk]
  rfl

/-- A command with a frame as its response shows that frame. -/
theorem exec_shown {i : Instr} {f : Frame} (h : responseOf i = .frame f) (s : State) :
    exec i s = .next { s with regs := shown f } :=
  (exec_eq_shown_iff i f s).mpr h

/-- A command that packs three low bytes shows their frame in integers. -/
theorem exec_shown_frameOf {i : Instr} {a ins v : Int}
    (h : responseOf i = .frame (encodeFrame (trunc8 a) (trunc8 ins) (trunc8 v))) (s : State) :
    exec i s = .next { s with regs := shown (frameOf a ins v) } :=
  exec_shown (encodeFrame_trunc8 a ins v ▸ h) s

/-- A command with the response InvalidIndex (60_exceptions.md R120). -/
theorem exec_invalidShown {i : Instr} (h : responseOf i = .error .invalidIndex) (s : State) :
    exec i s = .next { s with regs := invalidShown } := by
  rw [exec_eq, h]
  rfl

/-- A term UNHANDLED, whatever its code and its arguments (60_exceptions.md R121). -/
theorem exec_unhandled (n : BitVec 4) (a0 a1 : Int) (s : State) :
    exec (.unhandled n a0 a1) s = .next { s with regs := unhandledShown } :=
  exec_eq _ s

/-- The command on ports whose code is known. -/
theorem decodeCmd_of_op {argw : Nat} {c : Cmd argw} {op : BitVec 4} (h : c.op = op) :
    decodeCmd c = decodeOp op (sint c.a0) (sint c.a1) := by
  rw [decodeCmd, h]

/-- Settles O27: a command overwrites the register set with that of its response. -/
theorem everyCommandCompletes : Obligations.EveryCommandCompletes := fun i s =>
  ⟨(responseOf i).registers, exec_eq i s, rfl, registersOk_responseOf i, fun _ _ => exec_cases⟩

/-! ## The operations without validation (43_operations.md R91, R97, R98) -/

/-- Settles O17: SET packs the low bytes of both arguments. -/
theorem setSendsRawValue : Obligations.SetSendsRawValue := by
  refine ⟨fun _ _ => decodeCmd_of_op, fun a0 a1 => exec_shown_frameOf rfl, fun s => ⟨?_, ?_, ?_⟩⟩
  all_goals exact exec_shown (by decide) s

/-- Settles O23: SET_ADDRESS packs the low bytes of both arguments. -/
theorem setAddressSendsNewAddress : Obligations.SetAddressSendsNewAddress := by
  refine ⟨fun _ _ => decodeCmd_of_op, fun a0 a1 => exec_shown_frameOf rfl, fun s => ⟨?_, ?_⟩⟩
  all_goals exact exec_shown (by decide) s

/-- Settles O24: RESET_ADDRESS packs the low byte of its first argument; its response does not see the second. -/
theorem resetAddressSendsTarget : Obligations.ResetAddressSendsTarget := by
  refine ⟨fun _ _ => decodeCmd_of_op, fun a0 a1 => exec_shown_frameOf (a := 0) rfl, fun a1 s => ⟨?_, ?_, ?_⟩⟩
  all_goals exact exec_shown rfl s

/-! ## The relay operations (43_operations.md R92 to R94) -/

/-- The three relay operations are one gate over a frame built from the low byte of the address. -/
theorem exists_responseOf_eq_withRelayCode {op : Int → Int → Instr}
    (h : op ∈ [Instr.setRelay, Instr.clearRelay, Instr.toggleRelay]) :
    ∃ build : Byte → Int → Byte → Frame,
      ∀ a0 a1, responseOf (op a0 a1) = withRelayCode a1 (build (trunc8 a0) a1) := by
  simp only [List.mem_cons, List.not_mem_nil, or_false] at h
  obtain rfl | rfl | rfl := h
  · exact ⟨fun address index _ => encodeFrame address letterS (trunc8 index), fun _ _ => rfl⟩
  · exact ⟨fun address _ code => encodeFrame address letterC code, fun _ _ => rfl⟩
  · exact ⟨fun address _ code => encodeFrame address letterT code, fun _ _ => rfl⟩

/-- A relay operation on no relay index is InvalidIndex. -/
theorem exec_relay_invalidShown {op : Int → Int → Instr}
    (hop : op ∈ [Instr.setRelay, Instr.clearRelay, Instr.toggleRelay]) (a0 : Int) {a1 : Int}
    (hout : a1 < 1 ∨ 8 < a1) (s : State) : exec (op a0 a1) s = .next { s with regs := invalidShown } := by
  obtain ⟨build, hresp⟩ := exists_responseOf_eq_withRelayCode hop
  exact exec_invalidShown ((hresp a0 a1).trans (withRelayCode_invalid hout _)) s

/-- Settles O18: the value on a relay index is the index, and the gate that the relay operations share refuses any
other. -/
theorem setRelaySendsRawIndex : Obligations.SetRelaySendsRawIndex := by
  refine ⟨fun _ _ => decodeCmd_of_op, fun a0 a1 s h1 h8 => ⟨?_, ?_⟩,
    fun a0 a1 s hout => exec_relay_invalidShown (by simp) a0 hout s, exec_shown (by decide)⟩
  · exact exec_shown_frameOf (responseOf_setRelay h1 h8 a0) s
  · exact toNat_trunc8_of_byte (by omega) (by omega)

/-- Settles O19: the value on a relay index is its code, and any other index is refused. -/
theorem clearRelaySendsCode : Obligations.ClearRelaySendsCode := by
  refine ⟨fun _ _ => decodeCmd_of_op, fun a0 a1 s h1 h8 => ⟨?_, ?_⟩,
    fun a0 a1 s hout => exec_relay_invalidShown (by simp) a0 hout s, exec_shown (by decide)⟩
  · exact exec_shown_frameOf (responseOf_clearRelay h1 h8 a0) s
  · exact toNat_trunc8_of_byte (by omega) (by omega)

/-- Settles O20: the value on a relay index is its code, which SET_ADDRESS packs alike when it is given it as a
number. -/
theorem toggleRelaySendsCode : Obligations.ToggleRelaySendsCode := by
  refine ⟨fun _ _ => decodeCmd_of_op, fun a0 a1 s h1 h8 => ⟨?_, ?_, ?_⟩,
    fun a0 a1 s hout => exec_relay_invalidShown (by simp) a0 hout s, exec_shown (by decide)⟩
  · exact exec_shown_frameOf (responseOf_toggleRelay h1 h8 a0) s
  · obtain ⟨-, hsetAddress, -⟩ := setAddressSendsNewAddress
    exact hsetAddress a0 (0x30 + a1) s
  · exact toNat_trunc8_of_byte (by omega) (by omega)

/-! ## The operations without arguments and the fallback (43_operations.md R95, R96, R99) -/

/-- Settles O21: the response is one constant. -/
theorem emergencyStopIsConstant : Obligations.EmergencyStopIsConstant :=
  ⟨fun _ _ => decodeCmd_of_op, fun _ _ => exec_shown rfl, by decide⟩

/-- Settles O22: the response is one constant. -/
theorem displayAddressIsConstant : Obligations.DisplayAddressIsConstant :=
  ⟨fun _ _ => decodeCmd_of_op, fun _ _ => exec_shown rfl, by decide⟩

/-- Settles O25: the codes with bit 3 set decode to UNHANDLED, whose response is a constant of kind 3. -/
theorem unhandledGivesNoFrame : Obligations.UnhandledGivesNoFrame :=
  ⟨fun _ _ h => decodeOp_unhandled h _ _, fun n a0 a1 s _ => exec_unhandled n a0 a1 s,
    fun s => ⟨_, exec_unhandled 9 0 0 s, rfl⟩⟩

/-- Settles O53: a decoded command is well formed, and a well-formed UNHANDLED has a code with bit 3 set. -/
theorem unhandledTermOfAnyCode : Obligations.UnhandledTermOfAnyCode := by
  refine ⟨exec_unhandled, fun argw c n a0 a1 hn hdec => ?_⟩
  have hwf : (Instr.unhandled n a0 a1).wellFormed argw = true := hdec ▸ wellFormed_decodeCmd c
  obtain ⟨hbit, -⟩ := Bool.and_eq_true_iff.mp hwf
  exact Bool.false_ne_true (hn.symm.trans hbit)

/-! ## What of the arguments matters (43_operations.md R101) -/

/-- A command acts through its response only. -/
theorem exec_congr {i j : Instr} (h : responseOf i = responseOf j) (s : State) : exec i s = exec j s := by
  rw [exec_eq, exec_eq, h]

/-- The low byte does not see a multiple of 256. -/
theorem trunc8_add_mul (n k : Int) : trunc8 (n + 256 * k) = trunc8 n := by
  apply BitVec.eq_of_toNat_eq
  rw [toNat_trunc8, toNat_trunc8, Int.add_mul_emod_self_left]

/-- The gate of the relay operations gives a frame exactly for a relay index. -/
theorem withRelayCode_fv_iff (n : Int) (build : Byte → Frame) : (withRelayCode n build).fv = true ↔ isIndex n := by
  by_cases hn : isIndex n
  · obtain ⟨h1, h8⟩ := hn
    rw [withRelayCode_valid h1 h8]
    exact iff_of_true rfl ⟨h1, h8⟩
  · rw [withRelayCode_invalid (by unfold isIndex at hn; omega)]
    exact iff_of_false Bool.false_ne_true hn

/-- A relay index is not read modulo 256. -/
theorem not_isIndex_add_mul {n k : Int} (hn : isIndex n) (hk : k ≠ 0) : ¬ isIndex (n + 256 * k) := by
  unfold isIndex at *
  omega

/-- Settles O26: ignored arguments are not in the response, unvalidated ones are there as low bytes, and the gate of
the relay operations sees the whole index. -/
theorem argumentsThatMatter : Obligations.ArgumentsThatMatter := by
  intro a0 a1 b0 b1 j k n m s
  refine ⟨exec_congr rfl s, exec_congr rfl s, exec_congr rfl s, exec_congr ?_ s, exec_congr ?_ s, exec_congr ?_ s,
    fun op hop => ?_⟩
  · simp only [responseOf, opResetAddress, trunc8_add_mul]
  · simp only [responseOf, opSet, trunc8_add_mul]
  · simp only [responseOf, opSetAddress, trunc8_add_mul]
  · obtain ⟨build, hresp⟩ := exists_responseOf_eq_withRelayCode hop
    have hfv : ∀ index, (responseOf (op a0 index)).registers.fv = true ↔ isIndex index := fun index => by
      rw [hresp]
      exact withRelayCode_fv_iff index _
    refine ⟨exec_congr ?_ s, ⟨_, exec_eq _ s, hfv a1⟩, fun hidx hk heq => not_isIndex_add_mul hidx hk ?_⟩
    · rw [hresp, hresp, trunc8_add_mul]
    · rw [exec_eq, exec_eq] at heq
      have hregs : (responseOf (op a0 (a1 + 256 * k))).registers = (responseOf (op a0 a1)).registers :=
        congrArg State.regs (Host.Outcome.next.inj heq)
      rwa [← hfv, hregs, hfv]

/-! ## Unit U2 as comparators and an OR gate (41_relay_validator.md R74) -/

/-- The two signed comparators accept the relay indices: every width of at least 8 carries their constants 1 and 8
unchanged. -/
theorem validatorNets_rcValid_iff {argw : Nat} (h : 8 ≤ argw) (x : BitVec argw) :
    (validatorNets x).rcValid = true ↔ 1 ≤ sint x ∧ sint x ≤ 8 := by
  have hpow : 2 ^ 8 ≤ 2 ^ argw := Nat.pow_le_pow_right (by decide) h
  have hconst : ∀ k < 16, (BitVec.ofNat argw k).toInt = k := fun k hk => by
    have hk' : (BitVec.ofNat argw k).toNat = k := Nat.mod_eq_of_lt (by omega)
    rw [BitVec.toInt_eq_toNat_of_lt (by omega), hk']
  simp [validatorNets, BitVec.sle_iff_toInt_le, hconst, sint_eq_toInt]

/-- On a relay index no carry crosses the nibbles: the OR gate adds. -/
theorem relayCode_eq_or {n : Int} (h1 : 1 ≤ n) (h8 : n ≤ 8) :
    relayCode n = 0x30#8 ||| ((trunc8 n).extractLsb' 0 4).setWidth 8 := by
  interval_cases n <;> rfl

/-- The signals of U2 are those of `VALIDATE` of the signed argument. -/
theorem validatorNets_eq {argw : Nat} (h : 8 ≤ argw) (x : BitVec argw) :
    (validatorNets x).rcValid = (validate (sint x)).rcValid ∧ (validatorNets x).rcCode = (validate (sint x)).rcCode ∧
    (validatorNets x).rcDiag = (validate (sint x)).rcDiag := by
  have hcode : (validatorNets x).rcCode =
      if (validatorNets x).rcValid then 0x30#8 ||| (x.extractLsb' 0 4).setWidth 8 else 0x00#8 := rfl
  have hdiag : (validatorNets x).rcDiag = !(validatorNets x).rcValid := rfl
  by_cases hx : 1 ≤ sint x ∧ sint x ≤ 8
  · have hvalid := (validatorNets_rcValid_iff h x).mpr hx
    obtain ⟨h1, h8⟩ := hx
    have hnibble : (x.extractLsb' 0 8).extractLsb' 0 4 = x.extractLsb' 0 4 := by
      rw [BitVec.extractLsb'_extractLsb'_of_le (by decide)]
    rw [hcode, hdiag, hvalid, validate_valid h1 h8, if_pos rfl, ← hnibble, ← trunc8_sint h]
    exact ⟨rfl, (relayCode_eq_or h1 h8).symm, rfl⟩
  · have hinvalid : (validatorNets x).rcValid = false :=
      Bool.eq_false_iff.mpr (mt (validatorNets_rcValid_iff h x).mp hx)
    rw [hcode, hdiag, hinvalid, validate_invalid (by omega)]
    exact ⟨rfl, rfl, rfl⟩

/-! ## The nets and the operation mux (43_operations.md R100) -/

/-- The error gates and the select table of R100 fed with the integers that the ports carry. -/
def muxResponse (op : BitVec 4) (n0 n1 : Int) : Option Response :=
  if op.getLsbD 3 then some (.error .unhandled)
  else if (op == 1#4 || op == 2#4 || op == 3#4) && !(validate n1).rcValid then some (.error .invalidIndex)
  else (muxSelect op (trunc8 n0) (trunc8 n1) (validate n1).rcCode).map fun m =>
    .frame (encodeFrame m.addr m.instr m.value)

/-- At every width of at least 8 the nets are that mux: the low bytes of the ports are those of the integers, U2 is
`VALIDATE`, and the pack with its own U1 is `ENCODE`. -/
theorem nets_response_eq_muxResponse {argw : Nat} (h : 8 ≤ argw) (c : Cmd argw) :
    (nets c).response = muxResponse c.op (sint c.a0) (sint c.a1) := by
  obtain ⟨hvalid, hcode, -⟩ := validatorNets_eq h c.a1
  have hpack : ∀ a i v : Byte, (encoderNets a i v).encFrame = encodeFrame a i v := fun _ _ _ => rfl
  simp only [Nets.response, nets, muxResponse, hvalid, hcode, trunc8_sint h, Option.map_map, Function.comp_def, hpack]

/-- The mux computes EXEC: code by code, and for a relay operation by the answer of `VALIDATE`. -/
theorem muxResponse_eq_execResponse (op : BitVec 4) (n0 n1 : Int) :
    muxResponse op n0 n1 = some (execResponse op n0 n1) := by
  rcases opcode_cases op with h | h | h | h | h | h | h | h | h
  case inr.inr.inr.inr.inr.inr.inr.inr =>
    rw [execResponse_eq, decodeOp_unhandled h, muxResponse, if_pos h]
    rfl
  case inr.inl | inr.inr.inl | inr.inr.inr.inl =>
    subst h
    rw [execResponse_eq]
    cases hv : validate n1 <;>
      simp [muxResponse, muxSelect, responseOf, decodeOp, opSetRelay, opClearRelay, opToggleRelay, withRelayCode, hv,
        IndexCheck.rcValid, IndexCheck.rcCode, letterS, letterC, letterT]
  all_goals subst h; rfl

/-- A code with bit 3 set needs no validation. -/
theorem not_needsVal_of_unhandled {op : BitVec 4} (h : op.getLsbD 3 = true) :
    (op == 1#4 || op == 2#4 || op == 3#4) = false := by
  revert op
  decide

/-- Settles O16: the nets are the mux over integers, which computes EXEC; the error nets look at disjoint codes. -/
theorem datapathComputesExec : Obligations.DatapathComputesExec := by
  refine fun argw c h => ⟨?_, ?_, validatorNets_eq h c.a1⟩
  · rw [nets_response_eq_muxResponse h, muxResponse_eq_execResponse]
    rfl
  · rintro ⟨hunhandled, hinvalid⟩
    obtain ⟨hneeds, -⟩ := Bool.and_eq_true_iff.mp hinvalid
    exact Bool.false_ne_true ((not_needsVal_of_unhandled hunhandled).symm.trans hneeds)

end Sys2Proof.Machine

/-! PROOFS. The statements of 60_exceptions.md: what raises the two error conditions (R120, R121), the response kind
codes (R122), which condition wins (R124), and that no state is stuck (R128). -/

namespace Sys2Proof.Machine

open Sys2Proof.Safety Sys2Proof.Stated

/-! ## The two causes and the response to each command (60_exceptions.md R120, R121) -/

/-- The cause of InvalidIndex (R120): a relay operation whose second argument is not a relay index. -/
abbrev InvalidIndexCause {argw : Nat} (c : Cmd argw) : Prop :=
  (c.op = 1 ∨ c.op = 2 ∨ c.op = 3) ∧ (sint c.a1 < 1 ∨ 8 < sint c.a1)

/-- The codes 8 to 15 are those with bit 3 set. -/
theorem getLsbD_three_iff (op : BitVec 4) : op.getLsbD 3 = true ↔ 8 ≤ op.toNat := by
  revert op
  decide

/-- The two causes exclude each other: a relay operation has a code below 8. -/
theorem InvalidIndexCause.op_lt {argw : Nat} {c : Cmd argw} (h : InvalidIndexCause c) : c.op.toNat < 8 := by
  obtain ⟨hop | hop | hop, -⟩ := h <;> rw [hop] <;> decide

/-- A command with a code 8 to 15 is Unhandled. -/
theorem response_unhandled {argw : Nat} {c : Cmd argw} (h : 8 ≤ c.op.toNat) :
    Cmd.response c = .error .unhandled := by
  rw [response_eq, decodeCmd, decodeOp_unhandled ((getLsbD_three_iff c.op).mpr h)]
  rfl

/-- The ports of a relay operation present the gate that the three operations share, over their second argument. -/
theorem exists_response_eq_withRelayCode {argw : Nat} {c : Cmd argw} (h : c.op = 1 ∨ c.op = 2 ∨ c.op = 3) :
    ∃ build, Cmd.response c = withRelayCode (sint c.a1) build := by
  obtain hop | hop | hop := h <;> rw [Cmd.response, hop] <;> exact ⟨_, rfl⟩

/-- A relay operation on no relay index is InvalidIndex. -/
theorem response_invalidIndex {argw : Nat} {c : Cmd argw} (h : InvalidIndexCause c) :
    Cmd.response c = .error .invalidIndex := by
  obtain ⟨hop, hout⟩ := h
  obtain ⟨build, hresp⟩ := exists_response_eq_withRelayCode hop
  rw [hresp, withRelayCode_invalid hout]

/-- Every other command is answered with a frame. -/
theorem exists_response_eq_frame {argw : Nat} {c : Cmd argw} (hop : c.op.toNat < 8) (hcause : ¬ InvalidIndexCause c) :
    ∃ f, Cmd.response c = .frame f := by
  by_cases hrelay : c.op = 1 ∨ c.op = 2 ∨ c.op = 3
  · have hidx : ¬(sint c.a1 < 1 ∨ 8 < sint c.a1) := fun hout => hcause ⟨hrelay, hout⟩
    obtain ⟨build, hresp⟩ := exists_response_eq_withRelayCode hrelay
    exact ⟨_, hresp.trans (withRelayCode_valid (by omega) (by omega) build)⟩
  · rcases opcode_cases c.op with h | h | h | h | h | h | h | h | h
    case inr.inl | inr.inr.inl | inr.inr.inr.inl => simp [h] at hrelay
    case inr.inr.inr.inr.inr.inr.inr.inr => exact absurd ((getLsbD_three_iff c.op).mp h) (by omega)
    all_goals rw [Cmd.response, h]; exact ⟨_, rfl⟩

/-- Everything that a command on the ports can be answered with, by its cause. -/
theorem response_cases {argw : Nat} (c : Cmd argw) :
    (8 ≤ c.op.toNat ∧ ¬ InvalidIndexCause c ∧ Cmd.response c = .error .unhandled) ∨
    (c.op.toNat < 8 ∧ InvalidIndexCause c ∧ Cmd.response c = .error .invalidIndex) ∨
    (c.op.toNat < 8 ∧ ¬ InvalidIndexCause c ∧ ∃ f, Cmd.response c = .frame f) := by
  by_cases hcause : InvalidIndexCause c
  · exact .inr (.inl ⟨hcause.op_lt, hcause, response_invalidIndex hcause⟩)
  · by_cases hop : 8 ≤ c.op.toNat
    · exact .inl ⟨hop, hcause, response_unhandled hop⟩
    · exact .inr (.inr ⟨by omega, hcause, exists_response_eq_frame (by omega) hcause⟩)

/-- `EINV` after a command says that it had the cause of InvalidIndex. -/
theorem response_einv_iff {argw : Nat} (c : Cmd argw) : (Cmd.response c).einv = true ↔ InvalidIndexCause c := by
  obtain ⟨-, hcause, hresp⟩ | ⟨-, hcause, hresp⟩ | ⟨-, hcause, f, hresp⟩ := response_cases c <;> rw [hresp]
  · exact iff_of_false Bool.false_ne_true hcause
  · exact iff_of_true rfl hcause
  · exact iff_of_false Bool.false_ne_true hcause

/-- `EUNH` after a command says that its code was 8 to 15. -/
theorem response_eunh_iff {argw : Nat} (c : Cmd argw) : (Cmd.response c).eunh = true ↔ 8 ≤ c.op.toNat := by
  obtain ⟨hop, -, hresp⟩ | ⟨hop, -, hresp⟩ | ⟨hop, -, f, hresp⟩ := response_cases c <;> rw [hresp]
  · exact iff_of_true rfl hop
  · exact iff_of_false Bool.false_ne_true (by omega)
  · exact iff_of_false Bool.false_ne_true (by omega)

/-- Settles O28: `EINV` marks the cause, and the registers of InvalidIndex are a constant. -/
theorem invalidIndexExactly : Obligations.InvalidIndexExactly := by
  refine fun argw c s => ⟨_, exec_decodeCmd c s, response_einv_iff c, fun heinv => ?_⟩
  rw [response_invalidIndex ((response_einv_iff c).mp heinv)]
  rfl

/-- Settles O29: `EUNH` marks the codes 8 to 15, and the registers of Unhandled are a constant. -/
theorem unhandledExactly : Obligations.UnhandledExactly := by
  refine fun argw c s => ⟨_, exec_decodeCmd c s, response_eunh_iff c, fun heunh => ?_⟩
  rw [response_unhandled ((response_eunh_iff c).mp heunh)]
  rfl

/-! ## The response kind codes (60_exceptions.md R122) -/

/-- `rsp_kind` after a command is the kind code of its response. -/
theorem rspKind_registers (r : Response) : (outputs r.registers).rspKind = r.kind := by
  obtain f | c := r
  · rfl
  · cases c <;> rfl

/-- The kind codes in the order of their causes. -/
theorem response_kind {argw : Nat} (c : Cmd argw) :
    (Cmd.response c).kind = if 8 ≤ c.op.toNat then 3 else if InvalidIndexCause c then 2 else 1 := by
  obtain ⟨hop, -, hresp⟩ | ⟨hop, hcause, hresp⟩ | ⟨hop, hcause, f, hresp⟩ := response_cases c
  · rw [hresp, if_pos hop]; rfl
  · rw [hresp, if_neg (by omega), if_pos hcause]; rfl
  · rw [hresp, if_neg (by omega), if_neg hcause]; rfl

/-- Settles O30: no flag is 1 after a reset, a command sets the flag of its response, and the idle step leaves the
three flags alone. -/
theorem responseKindCodes : Obligations.ResponseKindCodes := by
  refine ⟨fun s hr => ?_, fun argw c s => ⟨_, exec_decodeCmd c s, ?_⟩, fun s hs hr hv => ⟨_, step_idle hs hr hv, rfl⟩⟩
  · obtain ⟨t, hstep, hregs, -⟩ := exists_step_reset hr
    exact ⟨t, hstep, by rw [hregs]; rfl⟩
  · exact (rspKind_registers _).trans (response_kind c)

/-! ## Priority (60_exceptions.md R124) -/

/-- Settles O31: the reset step reads nothing of the sample but `rst`, and the response to a code 8 to 15 nothing but
the code. -/
theorem resetBeatsUnhandledBeatsInvalid : Obligations.ResetBeatsUnhandledBeatsInvalid := by
  refine ⟨fun s hr => step_reset hr, fun s hs hr hv hop => ?_⟩
  obtain ⟨t, hstep, hregs⟩ := exists_step_command hs hr hv
  rw [response_unhandled hop] at hregs
  exact ⟨t, hstep, by rw [hregs]; rfl, by rw [hregs]; rfl⟩

/-! ## No stuck state (60_exceptions.md R128) -/

/-- A block that has been reset, or is at a reset edge, goes on. -/
theorem goes_of_reset {s : State} (h : (nextSample s).rst = true ∨ s.resetSeen = true) : Goes s :=
  ⟨_, step_eq_edge h⟩

/-- After any step that answers, a reset has been seen. -/
theorem step_resetSeen {s t : State} (h : step s = .next t) : t.resetSeen = true := by
  obtain ⟨-, rfl⟩ := step_edge_cases h
  rfl

/-- Settles O32: an edge is refused only before the first reset, and after every step a reset has been seen. -/
theorem noStuckState : Obligations.NoStuckState := fun _ =>
  ⟨fun hs => goes_of_reset (.inr hs), fun hr => goes_of_reset (.inl hr), fun hs hr => step_beforeReset hr hs,
    fun _ hstep => goes_of_reset (.inr (step_resetSeen hstep))⟩

end Sys2Proof.Machine

/-! PROOFS. The statements of 70_reset_and_hazards.md: the reset step (R140), and the host's duties towards a frame
(R147), an overrun (R148) and the responses of single commands (R150). -/

namespace Sys2Proof.Machine

open Sys2Proof.Safety

/-! ## Reset (70_reset_and_hazards.md R140) -/

/-- Settles O36: every reset edge ends in the one reset register set, from which the next edge performs a step. -/
theorem resetIsIdempotentAndLosesTheCommand : Obligations.ResetIsIdempotentAndLosesTheCommand := by
  intro s s' hr hr'
  obtain ⟨t, hstep, hregs, hseen⟩ := exists_step_reset hr
  obtain ⟨t', hstep', hregs', -⟩ := exists_step_reset hr'
  have hrv : t.regs.rv = false := by rw [hregs]; rfl
  refine ⟨t, t', hstep, hstep', hregs.trans hregs'.symm, hregs, hrv, hseen, goes_of_reset (.inr hseen), ?_⟩
  intro hagain
  obtain ⟨u, hstepu, hregsu, -⟩ := exists_step_reset hagain
  exact ⟨u, hstepu, hregsu.trans hregs.symm⟩

/-! ## Handing a frame over (70_reset_and_hazards.md R147; 10_state.md R15) -/

/-- The five bytes of a frame as the host hands them over, byte 0 first. -/
def Frame.bytes (f : Frame) : List Byte := [f.b0, f.b1, f.b2, f.b3, f.b4]

/-- Adding the bytes up from 0 is the sum of R82 (d). -/
theorem Frame.foldl_add8_bytes (f : Frame) : f.bytes.foldl add8 0 = f.sum8 := by
  simp [Frame.bytes, Frame.sum8, add8]

theorem handOver_of_fv {s : State} (hs : s.resetSeen = true) (hfv : s.regs.fv = true) :
    handOver s = .ok s.regs.frame.bytes := by
  simp [handOver, hs, hfv, Frame.bytes]

theorem handOver_of_not_fv {s : State} (hs : s.resetSeen = true) (hfv : s.regs.fv = false) :
    handOver s = .error .transmitWithoutFrame := by
  simp [handOver, hs, hfv]

/-- Once a reset has been seen, bytes are handed over only while `FV = 1`, and they are those of the frame registers. -/
theorem handOver_ok_cases {s : State} {bs : List Byte} (hs : s.resetSeen = true) (h : handOver s = .ok bs) :
    s.regs.fv = true ∧ bs = s.regs.frame.bytes := by
  cases hfv : s.regs.fv with
  | true => exact ⟨rfl, Except.ok.inj (h.symm.trans (handOver_of_fv hs hfv))⟩
  | false => cases h.symm.trans (handOver_of_not_fv hs hfv)

/-- Settles O49: what is handed over is the frame registers, of which the invariants give the marker and the sum. -/
theorem frameValidLicencesTransmission : Obligations.FrameValidLicencesTransmission := by
  refine fun s hs => ⟨handOver_of_fv hs, handOver_of_not_fv hs, fun hok bs h => ?_⟩
  obtain ⟨hfv, rfl⟩ := handOver_ok_cases hs h
  obtain ⟨-, hframe, -, -⟩ := hok hs
  obtain ⟨hmarker, hsum⟩ := hframe hfv
  exact ⟨rfl, congrArg some hmarker, (Frame.foldl_add8_bytes _).trans hsum⟩

/-! ## The consumer of the responses (70_reset_and_hazards.md R147, R150) -/

/-- Serving changes nothing of the block. -/
@[simp] theorem HostSystem.serve_cfb (h : HostSystem) : h.serve.cfb = h.cfb := by
  unfold HostSystem.serve
  split
  · split <;> rfl
  · rfl

theorem HostSystem.serve_of_not_rv {h : HostSystem} (hrv : h.cfb.regs.rv = false) : h.serve = h := by
  simp [HostSystem.serve, hrv]

/-- A fresh frame is handed over, and the consumer is busy with it. -/
theorem HostSystem.serve_frame {h : HostSystem} {f : Frame} (hs : h.cfb.resetSeen = true)
    (hregs : h.cfb.regs = (Response.frame f).registers) :
    h.serve = { h with busy := true, handed := h.handed ++ [f.bytes] } := by
  have hover : handOver h.cfb = .ok f.bytes := by
    rw [handOver_of_fv hs (by rw [hregs]; rfl), hregs]
    rfl
  simp [HostSystem.serve, hregs, hover]

/-- A fresh error condition is counted as a diagnostic, and nothing is handed over. -/
theorem HostSystem.serve_error {h : HostSystem} {c : Condition} (hs : h.cfb.resetSeen = true)
    (hregs : h.cfb.regs = (Response.error c).registers) :
    h.serve =
      { h with
        invalidDiagnostics := h.invalidDiagnostics + (Response.error c).einv.toNat
        unhandledDiagnostics := h.unhandledDiagnostics + (Response.error c).eunh.toNat } := by
  have hover : handOver h.cfb = .error .transmitWithoutFrame := handOver_of_not_fv hs (by rw [hregs]; rfl)
  simp [HostSystem.serve, hregs, hover]

/-! ## One edge of the system (70_reset_and_hazards.md R148) -/

/-- A command accepted while the consumer is busy is an overrun. -/
theorem HostSystem.edge_overrun {h : HostSystem} (hbusy : h.busy = true) (hacc : (nextSample h.cfb).accepts = true) :
    h.edge = .error .overrun := by
  simp [HostSystem.edge, hbusy, hacc]

/-- Without an overrun the block steps and the consumer serves the new cycle. -/
theorem HostSystem.edge_of_step {h : HostSystem} {t : State} (hfree : (h.busy && (nextSample h.cfb).accepts) = false)
    (hstep : step h.cfb = .next t) : h.edge = .ok (HostSystem.serve { h with cfb := t }) := by
  simp [HostSystem.edge, hfree, hstep]

/-- A consumer that is not busy is served at every edge at which the block goes on. -/
theorem HostSystem.exists_edge_of_not_busy {h : HostSystem} (hbusy : h.busy = false) (hgoes : Goes h.cfb) :
    ∃ h', h.edge = .ok h' := by
  obtain ⟨t, hstep⟩ := hgoes
  exact ⟨_, HostSystem.edge_of_step (by simp [hbusy]) hstep⟩

/-- The inversion of an edge of the system: where it answers, the block has stepped and the consumer has served the new
cycle. -/
theorem HostSystem.edge_cases {h h' : HostSystem} (hedge : h.edge = .ok h') :
    ∃ t, step h.cfb = .next t ∧ h' = HostSystem.serve { h with cfb := t } := by
  cases hfree : h.busy && (nextSample h.cfb).accepts with
  | true => simp [HostSystem.edge, hfree] at hedge
  | false =>
    cases hstep : step h.cfb with
    | next t => exact ⟨t, rfl, Except.ok.inj (hedge.symm.trans (HostSystem.edge_of_step hfree hstep))⟩
    | fault r => exact nomatch r
    | refused r => simp [HostSystem.edge, hfree, hstep] at hedge

/-- Settles O50: the block goes on after a reset, and only the busy mark makes the system refuse. -/
theorem overrunIsAHostError : Obligations.OverrunIsAHostError := by
  intro h hs hr hv
  have hacc : (nextSample h.cfb).accepts = true := (accepts_iff _).mpr ⟨hr, hv⟩
  have hgoes : Goes h.cfb := goes_of_reset (.inr hs)
  have hrelease : ∃ h', h.release.edge = .ok h' := HostSystem.exists_edge_of_not_busy rfl hgoes
  exact ⟨fun hbusy => HostSystem.edge_overrun hbusy hacc, hgoes, hrelease,
    fun hbusy => HostSystem.exists_edge_of_not_busy hbusy hgoes⟩

/-- Settles O51: `RV` says whether the edge accepted a command, and the consumer serves the response that stands in the
registers then. -/
theorem oneFrameOrOneDiagnostic : Obligations.OneFrameOrOneDiagnostic := by
  intro h h' hedge
  obtain ⟨t, hstep, rfl⟩ := HostSystem.edge_cases hedge
  have hseen : t.resetSeen = true := step_resetSeen hstep
  refine ⟨⟨t, hstep, HostSystem.serve_cfb _⟩, fun hacc => ?_, fun hacc => ?_⟩
  · have hregs : t.regs = (Cmd.response (nextSample h.cfb).cmd).registers := by
      obtain ⟨hr, hv⟩ := (accepts_iff _).mp hacc
      obtain ⟨-, rfl⟩ := step_edge_cases hstep
      exact edge_command hr hv h.cfb.regs
    cases hresp : Cmd.response (nextSample h.cfb).cmd with
    | frame f =>
      rw [hresp] at hregs
      rw [HostSystem.serve_frame hseen hregs]
      exact .inl ⟨f, rfl, rfl, rfl, rfl, rfl⟩
    | error c =>
      rw [hresp] at hregs
      rw [HostSystem.serve_error hseen hregs]
      cases c with
      | invalidIndex => exact .inr (.inl ⟨rfl, rfl, rfl, rfl, rfl⟩)
      | unhandled => exact .inr (.inr ⟨rfl, rfl, rfl, rfl, rfl⟩)
  · have hrv : t.regs.rv = false := by
      obtain ⟨-, rfl⟩ := step_edge_cases hstep
      exact (edge_rv (nextSample h.cfb) h.cfb.regs).trans hacc
    rw [HostSystem.serve_of_not_rv hrv]

end Sys2Proof.Machine

/-! PROOFS. The byte image of a command, the model's own choice (30_encoding.md R40; log 6), and the words that
95_test_vectors.md lists, which are read through it. -/

namespace Sys2Proof

/-! ## Numbers as bytes -/

@[simp] theorem length_wordBytes (n w : Nat) : (wordBytes n w).length = n := by
  induction n generalizing w with
  | zero => rfl
  | succ n ih => simp [wordBytes, ih]

/-- `n` bytes hold the number up to its multiples of `256 ^ n`. -/
theorem bytesWord_wordBytes (n w : Nat) : bytesWord (wordBytes n w) = w % 256 ^ n := by
  induction n generalizing w with
  | zero => simp [wordBytes, bytesWord, Nat.mod_one]
  | succ n ih =>
    calc bytesWord (wordBytes (n + 1) w) = w % 256 + 256 * (w / 256 % 256 ^ n) := by
          rw [wordBytes, bytesWord, ih, BitVec.toNat_ofNat]
      _ = w % (256 * 256 ^ n) := Nat.mod_mul.symm
      _ = w % 256 ^ (n + 1) := by rw [Nat.pow_succ']

/-- The bytes of a number are its low bytes and then the bytes of the rest. -/
theorem wordBytes_add (m n w : Nat) : wordBytes (m + n) w = wordBytes m w ++ wordBytes n (w / 256 ^ m) := by
  induction m generalizing w with
  | zero => simp [wordBytes]
  | succ m ih =>
    rw [Nat.add_right_comm, wordBytes, ih, Nat.div_div_eq_div_mul, ← Nat.pow_succ', wordBytes, List.cons_append]

/-! ## The image of a flat word (30_encoding.md R40) -/

/-- An image has room for every bit of the flat word. -/
theorem two_pow_flatBits_le (argw : Nat) : 2 ^ flatBits argw ≤ 256 ^ imageBytes argw := by
  have hbits : flatBits argw ≤ 8 * imageBytes argw := by unfold imageBytes; omega
  calc 2 ^ flatBits argw ≤ 2 ^ (8 * imageBytes argw) := Nat.pow_le_pow_right (by decide) hbits
    _ = 256 ^ imageBytes argw := Nat.pow_mul 2 8 _

/-- An image holds the whole of its flat word. -/
theorem bytesWord_image {argw : Nat} (w : BitVec (flatBits argw)) :
    bytesWord (wordBytes (imageBytes argw) w.toNat) = w.toNat := by
  rw [bytesWord_wordBytes, Nat.mod_eq_of_lt (Nat.lt_of_lt_of_le w.isLt (two_pow_flatBits_le argw))]

theorem decodeImage_short {argw : Nat} {bs : List Byte} (h : bs.length < imageBytes argw) :
    decodeImage argw bs = .error .shortImage := by
  simp [decodeImage, h]

/-- With as many bytes as an image at the head, only they are read: a bit above the flat word is refused, and otherwise
the bytes after them are left. -/
theorem decodeImage_append {argw : Nat} {bs : List Byte} (h : bs.length = imageBytes argw) (rest : List Byte) :
    decodeImage argw (bs ++ rest) =
      if 2 ^ flatBits argw ≤ bytesWord bs then .error .padding
      else .ok (Cmd.ofFlat (BitVec.ofNat (flatBits argw) (bytesWord bs)), rest) := by
  have hlen : ¬ (bs ++ rest).length < imageBytes argw := by simp [h]
  rw [decodeImage, if_neg hlen, List.take_left' h, List.drop_left' h]

theorem decodeBytes_of_error {argw : Nat} {bs : List Byte} {e : DecodeError} (h : decodeImage argw bs = .error e) :
    decodeBytes argw bs = .error e := by
  simp [decodeBytes, h]

/-- The image of a flat word decodes to the command of the word. -/
theorem decodeBytes_image {argw : Nat} (w : BitVec (flatBits argw)) (rest : List Byte) :
    decodeBytes argw (wordBytes (imageBytes argw) w.toNat ++ rest) = .ok (decodeWord argw w, rest) := by
  have himg : decodeImage argw (wordBytes (imageBytes argw) w.toNat ++ rest) = .ok (Cmd.ofFlat w, rest) := by
    rw [decodeImage_append (length_wordBytes _ _), bytesWord_image, if_neg (Nat.not_le.mpr w.isLt),
      BitVec.ofNat_toNat, BitVec.setWidth_eq]
  simp [decodeBytes, himg, decodeWord]

/-- Settles O3: the image of the flat word decodes to its command, and the two refusals are those of the image. -/
theorem byteImageRoundTrip : Obligations.ByteImageRoundTrip := by
  intro argw i rest hw hi
  refine ⟨?_, fun bs hshort => decodeBytes_of_error (decodeImage_short hshort), fun bs hlen hpad => ?_⟩
  · rw [encodeBytes, decodeBytes_image, decodeOfEncodedCommand argw i hw hi]
  · have himg : decodeImage argw (bs ++ rest) = .error .padding := by rw [decodeImage_append hlen, if_pos hpad]
    exact decodeBytes_of_error himg

/-! ## The words of the opcode table (95_test_vectors.md sections 2.4 and 3) -/

/-- A table word with room for a flat word is an image with bytes after it. -/
theorem tableBytes_flat {nbits : Nat} (hbits : flatBits Config.default.argw ≤ nbits)
    (w : BitVec (flatBits Config.default.argw)) :
    ∃ rest, tableBytes nbits w.toNat = wordBytes (imageBytes Config.default.argw) w.toNat ++ rest := by
  have hmod : w.toNat % 2 ^ nbits = w.toNat :=
    Nat.mod_eq_of_lt (Nat.lt_of_lt_of_le w.isLt (Nat.pow_le_pow_right (by decide) hbits))
  obtain ⟨k, hk⟩ := Nat.exists_eq_add_of_le (Nat.le_max_left (imageBytes Config.default.argw) ((nbits + 7) / 8))
  exact ⟨_, by rw [tableBytes, hmod, hk, wordBytes_add]⟩

/-- The flat word of a well-formed command, given as a table word, decodes to the command. -/
theorem decodeTableWord_encode {nbits : Nat} (hbits : flatBits Config.default.argw ≤ nbits) {i : Instr}
    (hi : i.wellFormed Config.default.argw = true) : decodeTableWord nbits (encode i).toNat = some i := by
  obtain ⟨rest, hbytes⟩ := tableBytes_flat hbits (encode i)
  have hword : decodeWord Config.default.argw (encode i) = i :=
    decodeOfEncodedCommand _ i Config.default.argw_ge hi
  simp [decodeTableWord, hbytes, decodeBytes_image, hword]

/-- A listed word, 72 bits of it given, decodes to the command whose flat word it is. -/
theorem decodeTableWord_listed {w : Nat} {i : Instr} (hw : (encode i).toNat = w)
    (hi : i.wellFormed Config.default.argw = true) : decodeTableWord 72 w = some i :=
  hw ▸ decodeTableWord_encode (by decide) hi

/-- Settles O6: each listed word is the flat word of its command, and each of the commands is well formed. -/
theorem listedWordsDecode : Obligations.ListedWordsDecode := by
  unfold Obligations.ListedWordsDecode
  and_intros <;> exact decodeTableWord_listed (by decide) (by decide)

end Sys2Proof
